-- ==== Sys2Proof/Word.lean ====
section
/-! DEFINITION. The widths the spec fixes: bytes of VRAM, 32-bit register words and addresses (R7, R10),
64-bit bus data and VRAM masks (R61, R73). Bit 0 is the least significant bit (R7). -/

namespace Sys2Proof

/-- One byte of VRAM or of an output pixel channel. -/
abbrev Byte := BitVec 8

/-- A 32-bit unsigned register word or address, `u32` of R7 and R8: `+ - *` wrap modulo 2^32. -/
abbrev Word := BitVec 32

/-- Bus data and byte mask of a VRAM transaction, up to eight bytes (R61). -/
abbrev DWord := BitVec 64

end Sys2Proof
end

