-- ==== Sys2Proof/Machine/RegisterMap.lean ====
section
/-! DEFINITION. NUM_REGS, REGMAP and FIELDMAP (R5): the named registers and fields of 10_state.md, the defaults of their
places, and a register map as plain data, which every configuration carries (log 9, log 10). -/

namespace Sys2Proof.Machine

/-- The named registers of R16. -/
inductive RegName where
  | id
  | revision
  | softreset
  | startrender
  | fbRCtrl
  | fbRSof1
  | fbRSof2
  | fbRSize
  | fbWSof1
  | fbWSof2
  | spgHblankInt
  | spgVblankInt
  | spgControl
  | spgHblank
  | spgLoad
  | spgVblank
  | spgWidth
  | voControl
  | voStartx
  | voStarty
  | scalerCtl
  | spgStatus
  | taListInit
  | taYuvTexBase
  | taListCont
deriving DecidableEq, Repr

/-- The default of REGMAP (R16): the byte offset of each named register from the start of the register block
(PRESUMED by the spec, log 10). -/
def RegName.byteOffset : RegName → Nat
  | .id => 0x000
  | .revision => 0x004
  | .softreset => 0x008
  | .startrender => 0x014
  | .fbRCtrl => 0x044
  | .fbRSof1 => 0x050
  | .fbRSof2 => 0x054
  | .fbRSize => 0x05C
  | .fbWSof1 => 0x060
  | .fbWSof2 => 0x064
  | .spgHblankInt => 0x0C8
  | .spgVblankInt => 0x0CC
  | .spgControl => 0x0D0
  | .spgHblank => 0x0D4
  | .spgLoad => 0x0D8
  | .spgVblank => 0x0DC
  | .spgWidth => 0x0E0
  | .voControl => 0x0E8
  | .voStartx => 0x0EC
  | .voStarty => 0x0F0
  | .scalerCtl => 0x0F4
  | .spgStatus => 0x10C
  | .taListInit => 0x144
  | .taYuvTexBase => 0x148
  | .taListCont => 0x160

/-- The fields of R19 to R35 that are narrower than their register. Those a rule reads and those that are storage
only are all here; reserved bits have no name (R37). -/
inductive FieldName where
  | taReset | pipelineSoftReset | sdramReset
  | fbEnable | fbLineDouble | fbDepth | fbConcat | fbChromaThreshold | fbStripsize | fbStripBufEn | vclkDiv
  | fbXSize | fbYSize | fbModulus
  | lineCompVal | hblankIntMode | hblankInInterrupt
  | vblankInLineNumber | vblankOutLineNumber
  | mhsyncPol | mvsyncPol | mcsyncPol | spgLock | interlace | forceField2 | ntsc | pal | syncDirection | csyncOnH
  | hbstart | hbend
  | hcount | vcount
  | vbstart | vbend
  | hswidth | vswidth | bpwidth | eqwidth
  | hsyncPol | vsyncPol | blankPol | blankVideo | fieldMode | pixelDouble | pclkDelay
  | hstart
  | vstartField1 | vstartField2
  | vscalefactor | hscale | scalerInterlace | fieldselect
  | scanline | fieldnum | blank | hsync | statusVsync
  | listInitTrigger
  | listContTrigger
deriving DecidableEq, Repr

/-- The bits `hi` down to `lo` of a register's word (R7). -/
structure BitRange where
  hi : Nat
  lo : Nat
deriving DecidableEq, Repr

/-- The width of a field. -/
def BitRange.width (r : BitRange) : Nat := r.hi - r.lo + 1

/-- Where a field stands: its register and its bits. -/
structure FieldPlace where
  reg : RegName
  hi : Nat
  lo : Nat
deriving DecidableEq, Repr

/-- Each field's register, and the default of FIELDMAP (R19 to R35; PRESUMED by the spec, log 10). -/
def FieldName.place : FieldName → FieldPlace
  -- R19
  | .taReset => ⟨.softreset, 0, 0⟩
  | .pipelineSoftReset => ⟨.softreset, 1, 1⟩
  | .sdramReset => ⟨.softreset, 2, 2⟩
  -- R21
  | .fbEnable => ⟨.fbRCtrl, 0, 0⟩
  | .fbLineDouble => ⟨.fbRCtrl, 1, 1⟩
  | .fbDepth => ⟨.fbRCtrl, 3, 2⟩
  | .fbConcat => ⟨.fbRCtrl, 6, 4⟩
  | .fbChromaThreshold => ⟨.fbRCtrl, 15, 8⟩
  | .fbStripsize => ⟨.fbRCtrl, 21, 16⟩
  | .fbStripBufEn => ⟨.fbRCtrl, 22, 22⟩
  | .vclkDiv => ⟨.fbRCtrl, 23, 23⟩
  -- R23
  | .fbXSize => ⟨.fbRSize, 9, 0⟩
  | .fbYSize => ⟨.fbRSize, 19, 10⟩
  | .fbModulus => ⟨.fbRSize, 29, 20⟩
  -- R24
  | .lineCompVal => ⟨.spgHblankInt, 9, 0⟩
  | .hblankIntMode => ⟨.spgHblankInt, 13, 12⟩
  | .hblankInInterrupt => ⟨.spgHblankInt, 25, 16⟩
  -- R25
  | .vblankInLineNumber => ⟨.spgVblankInt, 9, 0⟩
  | .vblankOutLineNumber => ⟨.spgVblankInt, 25, 16⟩
  -- R26
  | .mhsyncPol => ⟨.spgControl, 0, 0⟩
  | .mvsyncPol => ⟨.spgControl, 1, 1⟩
  | .mcsyncPol => ⟨.spgControl, 2, 2⟩
  | .spgLock => ⟨.spgControl, 3, 3⟩
  | .interlace => ⟨.spgControl, 4, 4⟩
  | .forceField2 => ⟨.spgControl, 5, 5⟩
  | .ntsc => ⟨.spgControl, 6, 6⟩
  | .pal => ⟨.spgControl, 7, 7⟩
  | .syncDirection => ⟨.spgControl, 8, 8⟩
  | .csyncOnH => ⟨.spgControl, 9, 9⟩
  -- R27
  | .hbstart => ⟨.spgHblank, 9, 0⟩
  | .hbend => ⟨.spgHblank, 25, 16⟩
  -- R28
  | .hcount => ⟨.spgLoad, 9, 0⟩
  | .vcount => ⟨.spgLoad, 25, 16⟩
  -- R29
  | .vbstart => ⟨.spgVblank, 9, 0⟩
  | .vbend => ⟨.spgVblank, 25, 16⟩
  -- R30
  | .hswidth => ⟨.spgWidth, 6, 0⟩
  | .vswidth => ⟨.spgWidth, 11, 8⟩
  | .bpwidth => ⟨.spgWidth, 21, 12⟩
  | .eqwidth => ⟨.spgWidth, 31, 22⟩
  -- R31
  | .hsyncPol => ⟨.voControl, 0, 0⟩
  | .vsyncPol => ⟨.voControl, 1, 1⟩
  | .blankPol => ⟨.voControl, 2, 2⟩
  | .blankVideo => ⟨.voControl, 3, 3⟩
  | .fieldMode => ⟨.voControl, 7, 4⟩
  | .pixelDouble => ⟨.voControl, 8, 8⟩
  | .pclkDelay => ⟨.voControl, 21, 16⟩
  -- R32
  | .hstart => ⟨.voStartx, 9, 0⟩
  -- R32
  | .vstartField1 => ⟨.voStarty, 9, 0⟩
  | .vstartField2 => ⟨.voStarty, 25, 16⟩
  -- R33
  | .vscalefactor => ⟨.scalerCtl, 15, 0⟩
  | .hscale => ⟨.scalerCtl, 16, 16⟩
  | .scalerInterlace => ⟨.scalerCtl, 17, 17⟩
  | .fieldselect => ⟨.scalerCtl, 18, 18⟩
  -- R34
  | .scanline => ⟨.spgStatus, 9, 0⟩
  | .fieldnum => ⟨.spgStatus, 10, 10⟩
  | .blank => ⟨.spgStatus, 11, 11⟩
  | .hsync => ⟨.spgStatus, 12, 12⟩
  | .statusVsync => ⟨.spgStatus, 13, 13⟩
  -- R35
  | .listInitTrigger => ⟨.taListInit, 31, 31⟩
  -- R35
  | .listContTrigger => ⟨.taListCont, 31, 31⟩

/-- Every named register. -/
def regNames : List RegName :=
  [.id, .revision, .softreset, .startrender, .fbRCtrl, .fbRSof1, .fbRSof2, .fbRSize, .fbWSof1,
   .fbWSof2, .spgHblankInt, .spgVblankInt, .spgControl, .spgHblank, .spgLoad, .spgVblank, .spgWidth,
   .voControl, .voStartx, .voStarty, .scalerCtl, .spgStatus, .taListInit, .taYuvTexBase,
   .taListCont]

/-- Every named field. -/
def fieldNames : List FieldName :=
  [.taReset, .pipelineSoftReset, .sdramReset, .fbEnable, .fbLineDouble, .fbDepth, .fbConcat,
   .fbChromaThreshold, .fbStripsize, .fbStripBufEn, .vclkDiv, .fbXSize, .fbYSize, .fbModulus,
   .lineCompVal, .hblankIntMode, .hblankInInterrupt, .vblankInLineNumber, .vblankOutLineNumber,
   .mhsyncPol, .mvsyncPol, .mcsyncPol, .spgLock, .interlace, .forceField2, .ntsc, .pal,
   .syncDirection, .csyncOnH, .hbstart, .hbend, .hcount, .vcount, .vbstart, .vbend, .hswidth,
   .vswidth, .bpwidth, .eqwidth, .hsyncPol, .vsyncPol, .blankPol, .blankVideo, .fieldMode,
   .pixelDouble, .pclkDelay, .hstart, .vstartField1, .vstartField2, .vscalefactor, .hscale,
   .scalerInterlace, .fieldselect, .scanline, .fieldnum, .blank, .hsync, .statusVsync,
   .listInitTrigger, .listContTrigger]

/-- What a list of pairs gives a key, its first entry counting; a key that is not listed keeps the default `d`. -/
def given {α β : Type} [DecidableEq α] (l : List (α × β)) (a : α) (d : β) : β :=
  match l with
  | [] => d
  | (k, v) :: t => if k = a then v else given t a d

/-- `off(REG)` of a REGMAP: the byte offset `>> 2` (R16). -/
def offsetIn (offsets : List (RegName × Nat)) (r : RegName) : Nat := given offsets r r.byteOffset / 4

/-- The bits of a field in a FIELDMAP. -/
def bitsIn (fields : List (FieldName × BitRange)) (f : FieldName) : BitRange :=
  given fields f ⟨f.place.hi, f.place.lo⟩

/-- What the rules require of the three parameters, whatever their values: a word offset is a key of a u32 address
(R72), every named register is in the file and no two share an offset (R10, R13, R14), every field has bits of its
32-bit register (R11), and the positions and widths that the source itself fixes stay (bit 0 of SOFTRESET, bit 31 of the
list triggers, the two-bit mode, the 16-bit scale factor; R83, R85, R86, R24, R33). DEDUCED, log 10. -/
def legalMap (numRegs : Nat) (offsets : List (RegName × Nat)) (fields : List (FieldName × BitRange)) : Bool :=
  decide (numRegs ≤ 2 ^ 30) &&
  (regNames.all fun r => decide (offsetIn offsets r < numRegs) &&
    regNames.all fun q => decide (r = q) || decide (offsetIn offsets r ≠ offsetIn offsets q)) &&
  (fieldNames.all fun f => decide ((bitsIn fields f).lo ≤ (bitsIn fields f).hi) && decide ((bitsIn fields f).hi < 32)) &&
  decide (bitsIn fields .taReset = ⟨0, 0⟩) && decide (bitsIn fields .listInitTrigger = ⟨31, 31⟩) &&
  decide (bitsIn fields .listContTrigger = ⟨31, 31⟩) && decide ((bitsIn fields .hblankIntMode).width = 2) &&
  decide ((bitsIn fields .vscalefactor).width = 16)

/-- NUM_REGS, REGMAP and FIELDMAP (R5). A register or field that is not listed stands at its default place, so that every
map is one of these and the empty lists are the default of R16 and R18 to R36. -/
structure RegisterMap where
  /-- `NUM_REGS`: 32-bit words of the register file (R10) -/
  numRegs : Nat
  /-- REGMAP: byte offsets -/
  offsets : List (RegName × Nat)
  /-- FIELDMAP: bits within the field's register -/
  fields : List (FieldName × BitRange)
  /-- see `legalMap` -/
  legal : legalMap numRegs offsets fields = true
deriving DecidableEq, Repr

/-- `off(REG)` (R16). -/
def RegisterMap.offset (m : RegisterMap) (r : RegName) : Nat := offsetIn m.offsets r

/-- The bits of a field (R11). -/
def RegisterMap.bits (m : RegisterMap) (f : FieldName) : BitRange := bitsIn m.fields f

/-- The word offset of a register transaction's byte address: `addr >> 2`, bits 1:0 ignored (R52, R72). -/
def wordOffset (addr : Word) : Nat := addr.toNat / 4

/-- The defaults of R5, R16 and R18 to R36. -/
def defaultMap : RegisterMap := ⟨2048, [], [], by rfl⟩

end Sys2Proof.Machine
end

