-- ==== Sys2Proof/Syntax.lean ====
section
/-! DEFINITION. The operations of the block: the transactions its agents present (R72, R73, R74), and `Instr`, one
constructor per row of spec/opcode_table.json. The block has no instruction words (R49, R74); a
transaction is the spec's own format, a tuple of operand fields (D37, log 16). -/

namespace Sys2Proof

/-- The two address-space views of VRAM (R52). -/
inductive View where
  /-- the 64-bit path: native interleaved byte addresses, no translation -/
  | v64
  /-- the 32-bit path: linear byte addresses, translated by `map32` (R54) -/
  | v32
deriving DecidableEq, Repr

/-- A transaction or operation as an agent presents it: the formats of R72 (registers), R73 (VRAM; the width is
read off the mask) and R74 (no operands). -/
inductive Transaction where
  /-- `REG_RD`: byte address in the register space, byte mask -/
  | regRd (addr mask : Word)
  /-- `REG_WR` -/
  | regWr (addr data mask : Word)
  /-- `V32_RD`: linear byte address, byte mask -/
  | v32Rd (addr : Word) (mask : DWord)
  /-- `V32_WR`: the data is right-justified, its low `8n` bits count (R75) -/
  | v32Wr (addr : Word) (mask data : DWord)
  /-- `V64_RD`: interleaved byte address, byte mask -/
  | v64Rd (addr : Word) (mask : DWord)
  /-- `V64_WR` -/
  | v64Wr (addr : Word) (mask data : DWord)
  /-- `TICK`, the scheduler's -/
  | tick
  /-- `RESET`, the host's -/
  | reset
  /-- `TEARDOWN`, the host's -/
  | teardown
  /-- `VSIZE`, the host's or the rendering pipeline's -/
  | vsize
deriving DecidableEq, Repr

/-- One constructor per row of spec/opcode_table.json, in the table's order. Register operands are those of
R72 (the whole byte address; its bits 1:0 are no part of the decode key), VRAM operands those of R73 with
the width in the constructor's name (`rdV32x4` is `rd.v32.4`). -/
inductive Instr where
  | rdReg (addr mask : Word)
  | wrRegId (addr data mask : Word)
  | wrRegSoftreset (addr data mask : Word)
  | wrRegStartrender (addr data mask : Word)
  | wrRegTaListInit (addr data mask : Word)
  | wrRegTaListCont (addr data mask : Word)
  | wrRegTaYuvTexBase (addr data mask : Word)
  | wrRegSpgLoad (addr data mask : Word)
  | wrRegFbRCtrl (addr data mask : Word)
  | wrReg (addr data mask : Word)
  | rdV32x1 (addr : Word)
  | rdV32x2 (addr : Word)
  | rdV32x4 (addr : Word)
  | rdV32x8 (addr : Word)
  | wrV32x1 (addr : Word) (data : BitVec 8)
  | wrV32x2 (addr : Word) (data : BitVec 16)
  | wrV32x4 (addr : Word) (data : BitVec 32)
  | wrV32x8 (addr : Word) (data : BitVec 64)
  | rdV64x1 (addr : Word)
  | rdV64x2 (addr : Word)
  | rdV64x4 (addr : Word)
  | rdV64x8 (addr : Word)
  | wrV64x1 (addr : Word) (data : BitVec 8)
  | wrV64x2 (addr : Word) (data : BitVec 16)
  | wrV64x4 (addr : Word) (data : BitVec 32)
  | wrV64x8 (addr : Word) (data : BitVec 64)
  | tick
  | reset
  | teardown
  | vsize
deriving DecidableEq, Repr

end Sys2Proof
end

