-- ==== Sys2Proof/WellFormed.lean ====
section
/-! DEFINITION. When an `Instr` is the operation its constructor names: a register write's address must be the one the
row of the opcode table matches (R76). Every other operand has the width of its field and no further
condition: a misaligned or out-of-range address is a fault of the running operation (R134). -/

namespace Sys2Proof

open Machine

/-- The eight offsets of R13 and R14 that plain storage does not cover: `ID` and the seven write handlers. -/
def specialRegs : List RegName :=
  [.id, .softreset, .startrender, .taListInit, .taListCont, .taYuvTexBase, .spgLoad, .fbRCtrl]

/-- A word offset of plain storage (R15), or one outside the register file (refused by the row `wr.reg`, R76). -/
def isPlainOffset (m : RegisterMap) (o : Nat) : Bool := specialRegs.all fun r => m.offset r != o

/-- Row by row, the condition of R76 on the address, under a register map. -/
def Instr.wellFormed (m : RegisterMap) : Instr → Bool
  | .rdReg _ _ => true
  | .wrRegId addr _ _ => wordOffset addr == m.offset .id
  | .wrRegSoftreset addr _ _ => wordOffset addr == m.offset .softreset
  | .wrRegStartrender addr _ _ => wordOffset addr == m.offset .startrender
  | .wrRegTaListInit addr _ _ => wordOffset addr == m.offset .taListInit
  | .wrRegTaListCont addr _ _ => wordOffset addr == m.offset .taListCont
  | .wrRegTaYuvTexBase addr _ _ => wordOffset addr == m.offset .taYuvTexBase
  | .wrRegSpgLoad addr _ _ => wordOffset addr == m.offset .spgLoad
  | .wrRegFbRCtrl addr _ _ => wordOffset addr == m.offset .fbRCtrl
  | .wrReg addr _ _ => isPlainOffset m (wordOffset addr)
  | .rdV32x1 _ => true
  | .rdV32x2 _ => true
  | .rdV32x4 _ => true
  | .rdV32x8 _ => true
  | .wrV32x1 _ _ => true
  | .wrV32x2 _ _ => true
  | .wrV32x4 _ _ => true
  | .wrV32x8 _ _ => true
  | .rdV64x1 _ => true
  | .rdV64x2 _ => true
  | .rdV64x4 _ => true
  | .rdV64x8 _ => true
  | .wrV64x1 _ _ => true
  | .wrV64x2 _ _ => true
  | .wrV64x4 _ _ => true
  | .wrV64x8 _ _ => true
  | .tick => true
  | .reset => true
  | .teardown => true
  | .vsize => true

end Sys2Proof
end

