-- ==== Sys2Proof/Decode.lean ====
section
/-! DEFINITION. The decoder, total on transactions, and the encoder. A register transaction is decoded by its word
offset in the order of R76; a VRAM transaction by its view, direction and byte mask (R61, R73); the
operations of R74 have no operands. The block has no wire encoding (D37), so what is decoded is the
transaction of the spec's own formats (DESIGN CHOICE, log 16). -/

namespace Sys2Proof

open Machine

/-- Why the decoder gives no operation. -/
inductive Reject where
  /-- a VRAM byte mask that is not `2^(8n)-1` for `n` in 1, 2, 4, 8 (R61); the step raises `Fault(BAD_MASK)` -/
  | badMask (mask : DWord)
deriving DecidableEq, Repr

/-- The byte mask of an access of `n` bytes: `2^(8n) - 1` (R61). -/
def maskOf (n : Nat) : DWord := BitVec.ofNat 64 (2 ^ (8 * n) - 1)

/-- R76, in its order: the first matching row names the operation. An offset outside the register file stands in the
row `wr.reg`, whose meaning refuses it. -/
def decodeRegWr (m : RegisterMap) (addr data mask : Word) : Instr :=
  let o := wordOffset addr
  if m.numRegs ≤ o then .wrReg addr data mask
  else if o = m.offset .id then .wrRegId addr data mask
  else if o = m.offset .softreset then .wrRegSoftreset addr data mask
  else if o = m.offset .startrender then .wrRegStartrender addr data mask
  else if o = m.offset .taListInit then .wrRegTaListInit addr data mask
  else if o = m.offset .taListCont then .wrRegTaListCont addr data mask
  else if o = m.offset .taYuvTexBase then .wrRegTaYuvTexBase addr data mask
  else if o = m.offset .spgLoad then .wrRegSpgLoad addr data mask
  else if o = m.offset .fbRCtrl then .wrRegFbRCtrl addr data mask
  else .wrReg addr data mask

/-- The width is read off the mask (R61, R73): the operation of that width, or `BAD_MASK`. -/
def decodeWidth (mask : DWord) (x1 x2 x4 x8 : Instr) : Except Reject Instr :=
  if mask = maskOf 1 then .ok x1
  else if mask = maskOf 2 then .ok x2
  else if mask = maskOf 4 then .ok x4
  else if mask = maskOf 8 then .ok x8
  else .error (.badMask mask)

/-- Every transaction is one of the formats of R72 to R74 (R78); REGMAP and NUM_REGS are the configuration's (R5). -/
def decode (m : RegisterMap) : Transaction → Except Reject Instr
  | .regRd addr mask => .ok (.rdReg addr mask)
  | .regWr addr data mask => .ok (decodeRegWr m addr data mask)
  | .v32Rd addr mask =>
    decodeWidth mask (.rdV32x1 addr) (.rdV32x2 addr) (.rdV32x4 addr) (.rdV32x8 addr)
  | .v32Wr addr mask data =>
    decodeWidth mask (.wrV32x1 addr (data.setWidth 8)) (.wrV32x2 addr (data.setWidth 16))
      (.wrV32x4 addr (data.setWidth 32)) (.wrV32x8 addr data)
  | .v64Rd addr mask =>
    decodeWidth mask (.rdV64x1 addr) (.rdV64x2 addr) (.rdV64x4 addr) (.rdV64x8 addr)
  | .v64Wr addr mask data =>
    decodeWidth mask (.wrV64x1 addr (data.setWidth 8)) (.wrV64x2 addr (data.setWidth 16))
      (.wrV64x4 addr (data.setWidth 32)) (.wrV64x8 addr data)
  | .tick => .ok .tick
  | .reset => .ok .reset
  | .teardown => .ok .teardown
  | .vsize => .ok .vsize

/-- The transaction of an operation, written from R72 to R74: its format, its operand fields, the mask of its width,
its data right-justified in the bus data. -/
def encode : Instr → Transaction
  | .rdReg addr mask => .regRd addr mask
  | .wrRegId addr data mask => .regWr addr data mask
  | .wrRegSoftreset addr data mask => .regWr addr data mask
  | .wrRegStartrender addr data mask => .regWr addr data mask
  | .wrRegTaListInit addr data mask => .regWr addr data mask
  | .wrRegTaListCont addr data mask => .regWr addr data mask
  | .wrRegTaYuvTexBase addr data mask => .regWr addr data mask
  | .wrRegSpgLoad addr data mask => .regWr addr data mask
  | .wrRegFbRCtrl addr data mask => .regWr addr data mask
  | .wrReg addr data mask => .regWr addr data mask
  | .rdV32x1 addr => .v32Rd addr (maskOf 1)
  | .rdV32x2 addr => .v32Rd addr (maskOf 2)
  | .rdV32x4 addr => .v32Rd addr (maskOf 4)
  | .rdV32x8 addr => .v32Rd addr (maskOf 8)
  | .wrV32x1 addr data => .v32Wr addr (maskOf 1) (data.setWidth 64)
  | .wrV32x2 addr data => .v32Wr addr (maskOf 2) (data.setWidth 64)
  | .wrV32x4 addr data => .v32Wr addr (maskOf 4) (data.setWidth 64)
  | .wrV32x8 addr data => .v32Wr addr (maskOf 8) data
  | .rdV64x1 addr => .v64Rd addr (maskOf 1)
  | .rdV64x2 addr => .v64Rd addr (maskOf 2)
  | .rdV64x4 addr => .v64Rd addr (maskOf 4)
  | .rdV64x8 addr => .v64Rd addr (maskOf 8)
  | .wrV64x1 addr data => .v64Wr addr (maskOf 1) (data.setWidth 64)
  | .wrV64x2 addr data => .v64Wr addr (maskOf 2) (data.setWidth 64)
  | .wrV64x4 addr data => .v64Wr addr (maskOf 4) (data.setWidth 64)
  | .wrV64x8 addr data => .v64Wr addr (maskOf 8) data
  | .tick => .tick
  | .reset => .reset
  | .teardown => .teardown
  | .vsize => .vsize

/-- The transaction the opcode table's bits stand for (DESIGN CHOICE, log 15). A table row gives bits to ONE operand field and says
nothing of the format: 32 bits are the `addr` of a register transaction, 64 bits the `mask` of a VRAM
transaction, no more than 8 bits an operation without operands. The operand fields the table gives no bits
are zero. Where one word is several rows' (the table's `rd.reg` and `wr.reg` share theirs, the four VRAM
formats share theirs, and the four operations without operands share theirs) it is read as `REG_WR`,
`V32_RD` and `TICK`. -/
def tableTransaction (nbits w : Nat) : Transaction :=
  if nbits ≤ 8 then .tick
  else if nbits ≤ 32 then .regWr (BitVec.ofNat 32 w) 0 0
  else .v32Rd 0 (BitVec.ofNat 64 w)

/-- What the decoder reads from the opcode table's bits, which are those of the default REGMAP. -/
def decodeTableWord (nbits w : Nat) : Option Instr :=
  match decode defaultMap (tableTransaction nbits w) with
  | .ok i => some i
  | .error _ => none

end Sys2Proof
end

