-- ==== Sys2Proof/Config.lean ====
section
/-! DEFINITION. What an implementation fixes: the parameters of rule R5 over which every statement of this model
quantifies. They are plain data (log 9) and stand in `State.config`, which no operation changes. The
defaults of R5 are `Machine.defaultConfig` in Machine/Defaults.lean. The sizes that the source states (VRAM_SIZE,
BANK_SIZE, NS_PER_SEC) are constants there. This model needs no free value: each point the spec leaves open is data here, in VRAM
or in the inbox. -/

namespace Sys2Proof

open Machine

/-- `OOR_POLICY` (R5, R57, D15): what an access at a VRAM address `>= VRAM_SIZE` does. -/
inductive OorPolicy where
  /-- the access raises `Fault(VRAM_RANGE)` before any byte moves (the default) -/
  | fault
  /-- the address is taken modulo `VRAM_SIZE` -/
  | wrap
deriving DecidableEq, Repr

/-- `MASKED_WRITE_MODE` (R5, R82, D3): how a register write's byte mask is applied. -/
inductive MaskedWriteMode where
  /-- the whole data word is stored whatever the mask (the default) -/
  | verbatim
  /-- the masked bits of the data replace those of the stored word -/
  | merge
deriving DecidableEq, Repr

/-- `VSCALE_LAW` (R5, R127, D23, C2): how the vertical scale factor rescales the height. -/
inductive VscaleLaw where
  /-- `(h * factor) >> 10` (the default) -/
  | mulShr10
  /-- `(h << 10) div factor`; factor 0 is `Fault(VSCALE_ZERO)` -/
  | divShl10
deriving DecidableEq, Repr

/-- `INT_HBLANK`, `INT_VBLANK_IN`, `INT_VBLANK_OUT` (R5, R138, D29): any three identifiers, pairwise distinct (log 13). -/
structure Interrupts where
  hblank : Nat
  vblankIn : Nat
  vblankOut : Nat
  distinct : hblank ≠ vblankIn ∧ hblank ≠ vblankOut ∧ vblankIn ≠ vblankOut
deriving DecidableEq, Repr

/-- The parameters of R5 a model takes as arguments. -/
structure Config where
  /-- `NUM_REGS`, `REGMAP` and `FIELDMAP` (D1) -/
  regMap : RegisterMap
  /-- `OOR_POLICY` (D15) -/
  oorPolicy : OorPolicy
  /-- `MASKED_WRITE_MODE` (D3) -/
  maskedWriteMode : MaskedWriteMode
  /-- `VSCALE_LAW` (D23) -/
  vscaleLaw : VscaleLaw
  /-- `PIXEL_CLOCK_BASE_HZ` (D11) -/
  pixelClockBaseHz : Nat
  /-- the rates R98 and R161 allow: with the ten-bit `hcount` of the default map at least 1024 Hz, so that no division is by
  zero, and at most 250 MHz, since a line period of zero is a hang. The bound is carried by the data, so no
  configuration of the model divides by zero or hangs (DEDUCED, log 11) -/
  clockInRange : 2 ^ (regMap.bits .hcount).width ≤ pixelClockBaseHz ∧ pixelClockBaseHz ≤ 250000000
  /-- `FB_COOKIE`, the sentinel marker (D12) -/
  fbCookie : Word
  /-- `MARK_LINE_WIDTHS`, pixels (D13) -/
  markLineWidths : List Nat
  /-- `MARK_DEPTH_BYTES`, bytes per pixel (D13) -/
  markDepthBytes : List Nat
  /-- `MARK_VSCALES` (D13) -/
  markVscales : List Nat
  /-- `IS_TEXTURE_ADDR(a)` holds where `a & p.1 = p.2` for some pair `p` of these; every set of addresses is such a list
  (D14; DESIGN CHOICE, log 12) -/
  textureRegion : List (Word × Word)
  /-- `REG_RESET`, the reset word of each word offset, `ID_VALUE` among them; an offset not listed resets to
  0, and the first entry of an offset counts (R17, D2) -/
  regReset : List (Nat × Word)
  /-- the three interrupt identifiers (D29) -/
  interrupts : Interrupts
  /-- `VBLANK_COUNTER`, the name of the diagnostic counter (D26) -/
  vblankCounter : String
deriving DecidableEq, Repr

end Sys2Proof
end

