-- ==== Sys2Proof/Machine/Defaults.lean ====
section
/-! DEFINITION. The sizes of the spec, REG_RESET (R17) and the defaults of the parameters of R5. The spec gives most of
them from general knowledge (93_implementation_defined.md Part 2); the reset state takes its defaults (DESIGN CHOICE,
log 9; PRESUMED by the spec, log 10, log 21). -/

namespace Sys2Proof.Machine

/-- `VRAM_SIZE`: 8 MiB (R5, doc). -/
def vramSize : Nat := 0x800000

/-- `BANK_SIZE`: 4 MiB (R5, doc). -/
def bankSize : Nat := 0x400000

/-- `NS_PER_SEC` (R5, doc). -/
def nsPerSec : Nat := 1000000000

/-- REG_RESET (R17) at the default offsets: the registers whose reset word is not zero; every other offset resets to 0
(PRESUMED by the spec, log 21). -/
def regResetTable : List (Nat × Word) :=
  [ (defaultMap.offset .id, 0x17FD11DB), (defaultMap.offset .revision, 0x00000011),
    (defaultMap.offset .softreset, 0x00000007), (defaultMap.offset .spgHblankInt, 0x031D0000),
    (defaultMap.offset .spgVblankInt, 0x00150104), (defaultMap.offset .spgHblank, 0x007E0345),
    (defaultMap.offset .spgLoad, 0x01060359), (defaultMap.offset .spgVblank, 0x01500104),
    (defaultMap.offset .spgWidth, 0x07F1933F), (defaultMap.offset .voControl, 0x00000108),
    (defaultMap.offset .voStartx, 0x0000009D), (defaultMap.offset .voStarty, 0x00000015),
    (defaultMap.offset .scalerCtl, 0x00000400) ]

/-- The defaults of R5. -/
def defaultConfig : Config where
  regMap := defaultMap
  oorPolicy := .fault
  maskedWriteMode := .verbatim
  vscaleLaw := .mulShr10
  pixelClockBaseHz := 13500000
  clockInRange := by decide
  fbCookie := 0xDEADBEEF
  markLineWidths := [640, 320]
  markDepthBytes := [2, 3, 4]
  markVscales := [1, 2]
  textureRegion := [(0x01000000, 0x01000000)]
  regReset := regResetTable
  interrupts := ⟨5, 3, 4, by decide⟩
  vblankCounter := "pvr_vblanks"

end Sys2Proof.Machine
end

