-- ==== Sys2Proof/Machine/State.lean ====
section
/-! DEFINITION. The state of the block, plain data: every piece of state of R10 to R51, the scheduler's virtual time
(R146), the parameters (R5), and the model's own fields `reply` and `inbox` (log 1, log 3). -/

namespace Sys2Proof.Machine

/-- The fault codes of R131 with the info each records (R130). `fault` of R45 holds one of them. -/
inductive BlockFault where
  /-- `HBLANK_MODE`: the mode value (R103, R132) -/
  | hblankMode (mode : Nat)
  /-- `DEPTH`: the depth value (R119, R133) -/
  | depth (depth : Nat)
  /-- `VRAM_RANGE`: the first out-of-range address (R57) -/
  | vramRange (addr : Word)
  /-- `BAD_MASK`: the mask (R61) -/
  | badMask (mask : DWord)
  /-- `MISALIGNED`: the address (R62) -/
  | misaligned (addr : Word)
  /-- `REG_RANGE`: the address (R65, R76) -/
  | regRange (addr : Word)
  /-- `VSCALE_ZERO` (R127) -/
  | vscaleZero
deriving DecidableEq, Repr

/-- An extracted frame: packed R, G, B bytes with its dimensions (R43, R121). -/
structure Frame where
  bytes : List Byte
  width : Nat
  height : Nat
deriving DecidableEq, Repr

/-- The outward calls of R47; a collaborator never calls back (R147, log 4). -/
inductive Event where
  | pipelineReset
  | pipelineStartRender
  | pipelineListInit
  | pipelineListCont
  | pipelineYuvInit
  /-- the identifier is one of the configuration's three (R138) -/
  | raise (id : Nat)
  | vblankIn (blank : Bool)
  | vblankOut
  | pushFrame (frame : Frame)
  | counterAdd (name : String) (amount : Nat)
  | timerCancel
  | timerArm (deadline : Nat)
deriving DecidableEq, Repr

/-- What an operation hands back to the agent that issued it: the result of R72 to R74, or which of the outcome classes
of R129 it ended in (DESIGN CHOICE, log 3). A benign no-op answers `done` like any completed operation: it "is not logged". -/
inductive Reply where
  /-- no operation since reset -/
  | none
  /-- completed, no result -/
  | done
  /-- `REG_RD`: the stored word (R80) -/
  | word (w : Word)
  /-- a VRAM read of `n` bytes, right-justified, zero-extended (R73, R75) -/
  | value (n : Nat) (v : DWord)
  /-- `VSIZE`: width and height (R127) -/
  | size (width height : Nat)
  /-- the operation raised the fault that `fault` now holds (R130) -/
  | faulted
  /-- the operation was not accepted: no step (R129, R136) -/
  | noStep
deriving DecidableEq, Repr

/-- A move of an agent (R6, R147). -/
inductive Move where
  /-- a transaction or operation of 30_encoding.md -/
  | bus (t : Transaction)
  /-- the memory subsystem, which owns the buffer, writes a byte of VRAM at an interleaved address (R147, log 19) -/
  | memoryWrite (addr : Nat) (value : Byte)
deriving DecidableEq, Repr

/-- A move with the virtual time it is issued at, and, should the scanline tick be due at that same time, whether it goes
before the tick: R146 leaves that order open, so the bit is free (D30; DESIGN CHOICE, log 1). -/
structure Request where
  time : Nat
  beforeTick : Bool
  move : Move
deriving DecidableEq, Repr

/-- Why the machine as a whole has no next state. No operation of the block ends so: a fault of the block is a next state
whose `fault` field is set (R130, log 2). -/
inductive Fault where
  /-- raised by the step when no move is waiting and no tick can fire: the block is faulted or torn down and nobody
  does anything (R136, R154). Safe: the hardware does nothing either (log 6). -/
  | quiescent
  /-- raised by the step when the armed deadline lies before the current time, which the scheduler's contract rules out
  (R146). Safe: no run of the model gets there (log 7). -/
  | missedDeadline
deriving DecidableEq, Repr

/-- Why an operation has no meaning in the model. -/
inductive Refusal where
  /-- raised by `exec` for an operation not yet modelled; no operation of this model is. Safe. -/
  | notModelled (mnemonic : String)
deriving DecidableEq, Repr

/-- The state of one device instance (R6), the buffer it borrows (R44), the scheduler's clock and the moves waiting. -/
structure State where
  /-- the parameters of R5; no operation changes them (log 9) -/
  config : Config
  /-- `now`, virtual time in nanoseconds, the scheduler's (R146; DESIGN CHOICE, log 5) -/
  now : Nat
  /-- `reg[0 .. NUM_REGS-1]` (R10): pairs (word offset, word) in canonical form, an unlisted offset holds 0 (log 18) -/
  regs : List (Nat × Word)
  /-- `VRAM[0 .. VRAM_SIZE-1]` (R44): pairs (interleaved address, byte) in canonical form, an unlisted byte is 0
  (DESIGN CHOICE, log 8) -/
  vram : List Host.Cell
  /-- `current_line` (R38) -/
  currentLine : Nat
  /-- `field`, one bit (R38) -/
  field : Bool
  /-- `vsync` (R38) -/
  vsync : Bool
  /-- `line_period_ns`, latched by reconfiguration (R39) -/
  linePeriodNs : Nat
  /-- `timer`, the deadline of the one outstanding scanline timer (R40) -/
  timer : Option Nat
  /-- `got_startrender`, the Frame-Presented Flag (R41) -/
  gotStartrender : Bool
  /-- `vblank_count` (R42) -/
  vblankCount : BitVec 64
  /-- `fb_out`, the Framebuffer Output Buffer (R43) -/
  fbOut : Option Frame
  /-- `fault` (R45) -/
  fault : Option BlockFault
  /-- `live` (R46) -/
  live : Bool
  /-- the event trace, in the order made (R47) -/
  trace : List Event
  /-- the model's own: what the last operation handed back (DESIGN CHOICE, log 3) -/
  reply : Reply
  /-- the model's own: the moves not yet served, oldest first (DESIGN CHOICE, log 1) -/
  inbox : List Request
deriving DecidableEq, Repr

/-- The block right after `RESET` at virtual time 0 from a fresh state, under the default parameters (R148 to R151):
the registers of R17, the timing state at 0, the timer armed one line period away. -/
def State.reset : State where
  config := defaultConfig
  now := 0
  regs := regResetTable
  vram := []
  currentLine := 0
  field := false
  vsync := false
  linePeriodNs := 63556
  timer := some 63556
  gotStartrender := false
  vblankCount := 0
  fbOut := none
  fault := none
  live := true
  trace := [.timerArm 63556]
  reply := .none
  inbox := []

end Sys2Proof.Machine
end

