-- ==== Sys2Proof/Machine/Ops.lean ====
section
/-! DEFINITION. The named operations every meaning is written over: canonical cells, register and VRAM storage, the
address translator, events, the outcome classes of R129, raising a fault and coming back from one. -/

namespace Sys2Proof.Machine

/-! ### Cells: sparse storage in one canonical form -/

/-- What a key holds; a key that is not listed holds the default `d`. -/
def cellsRead {α : Type} (d : α) : List (Nat × α) → Nat → α
  | [], _ => d
  | (k, v) :: t, a => if k = a then v else cellsRead d t a

/-- A new entry before the first larger key. -/
def cellsInsert {α : Type} (a : Nat) (v : α) : List (Nat × α) → List (Nat × α)
  | [] => [(a, v)]
  | (k, w) :: t => if a < k then (a, v) :: (k, w) :: t else (k, w) :: cellsInsert a v t

/-- No entry of that key. -/
def cellsErase {α : Type} (a : Nat) : List (Nat × α) → List (Nat × α)
  | [] => []
  | (k, w) :: t => if k = a then cellsErase a t else (k, w) :: cellsErase a t

/-- A write: the default is stored by listing nothing. -/
def cellsWrite {α : Type} [DecidableEq α] (d : α) (l : List (Nat × α)) (a : Nat) (v : α) : List (Nat × α) :=
  if v = d then cellsErase a l else cellsInsert a v (cellsErase a l)

/-- The canonical form over keys below `n`: keys strictly rising, no entry equal to the default. -/
def cellsWf {α : Type} [DecidableEq α] (d : α) (n : Nat) : List (Nat × α) → Bool
  | [] => true
  | [(k, v)] => decide (k < n) && decide (v ≠ d)
  | (k, v) :: (k', v') :: t => decide (k < k') && decide (v ≠ d) && cellsWf d n ((k', v') :: t)

/-! ### The register file (R10 to R12) -/

/-- `reg[o]` (R9). -/
def State.reg (s : State) (o : Nat) : Word := cellsRead 0 s.regs o

/-- `reg[o] <- w`, the whole word (R9). -/
def State.setReg (s : State) (o : Nat) (w : Word) : State := { s with regs := cellsWrite 0 s.regs o w }

/-- The canonical form of a register file of `n` words. -/
def Regs.wf (n : Nat) (l : List (Nat × Word)) : Bool := cellsWf 0 n l

/-- `REG_RESET[o]` (R17). -/
def regResetWord (c : Config) (o : Nat) : Word := cellsRead 0 c.regReset o

/-- `reset_regs()` (R149): every offset of a register file of `n` words holds its reset word. -/
def resetRegs (n : Nat) : List (Nat × Word) → List (Nat × Word)
  | [] => []
  | (o, w) :: t => if o < n then cellsWrite 0 (resetRegs n t) o w else resetRegs n t

/-! ### VRAM (R44, R52 to R59) -/

/-- What a byte of VRAM that nothing has written reads as (DESIGN CHOICE, unsafe, log 8). -/
def unlistedByte : Byte := 0

/-- `VRAM[i]` (R9), `i` an interleaved address. -/
def State.vramByte (s : State) (i : Nat) : Byte := cellsRead unlistedByte s.vram i

/-- `VRAM[i] <- b` (R9). -/
def State.setVramByte (s : State) (i : Nat) (b : Byte) : State :=
  { s with vram := cellsWrite unlistedByte s.vram i b }

/-- The canonical form of VRAM: addresses strictly rising below `VRAM_SIZE`, no entry equal to an unlisted byte. -/
def Memory.wf (m : List Host.Cell) : Bool := cellsWf unlistedByte vramSize m

/-- The translator of R54: bits 21:2, then the bank bit 22, then bits 1:0. -/
def map32 (a : Word) : Word :=
  ((a.extractLsb' 2 20 ++ a.extractLsb' 22 1 ++ a.extractLsb' 0 2 : BitVec 23)).setWidth 32

/-- Its inverse on `[0, VRAM_SIZE)` (R56). -/
def unmap32 (m : Word) : Word :=
  ((m.extractLsb' 2 1 ++ m.extractLsb' 3 20 ++ m.extractLsb' 0 2 : BitVec 23)).setWidth 32

/-- An address taken modulo `VRAM_SIZE` (R57, `wrap`); an address in range is itself. -/
def wrapAddr (a : Word) : Word := BitVec.ofNat 32 (a.toNat % vramSize)

/-- The byte of the buffer an address of a view names (R52). -/
def vramIndex (v : View) (a : Word) : Nat :=
  match v with
  | .v64 => (wrapAddr a).toNat
  | .v32 => (map32 (wrapAddr a)).toNat

/-- Whether an access at this address may go on: in range, or `OOR_POLICY = wrap` (R57). -/
def addrAllowed (c : Config) (a : Word) : Bool :=
  decide (a.toNat < vramSize) || decide (c.oorPolicy = .wrap)

/-- Bytes written at rising addresses of a view, the first at `a`; the address is u32 and wraps (R58, R93, R95). -/
def State.writeBytes (v : View) : List Byte → Word → State → State
  | [], _, s => s
  | b :: bs, a, s => State.writeBytes v bs (a + 1) (s.setVramByte (vramIndex v a) b)

/-- Bytes at rising addresses of a view. -/
def State.readBytes (s : State) (v : View) : Nat → Word → List Byte
  | 0, _ => []
  | n + 1, a => s.vramByte (vramIndex v a) :: s.readBytes v n (a + 1)

/-! ### Byte order (R59): the least significant byte first -/

/-- The number whose little-endian bytes these are. -/
def leValue : List Byte → Nat
  | [] => 0
  | b :: bs => b.toNat + 256 * leValue bs

/-- The `n` low bytes of a number, least significant first. -/
def leBytes : Nat → Nat → List Byte
  | 0, _ => []
  | n + 1, v => BitVec.ofNat 8 v :: leBytes n (v / 256)

/-! ### The block's own VRAM accesses (R58): linear addresses, byte by byte, no alignment -/

/-- The first address of the `n` from `a` on at which an access may not go on (DEDUCED, log 20). -/
def firstRefused (c : Config) : Nat → Word → Option Word
  | 0, _ => none
  | n + 1, a => if addrAllowed c a then firstRefused c n (a + 1) else some a

/-- `n` bytes from `a` on, or `VRAM_RANGE` at the first byte out of range. -/
def State.linRead (s : State) (n : Nat) (a : Word) : Except BlockFault (List Byte) :=
  match firstRefused s.config n a with
  | some x => .error (.vramRange x)
  | none => .ok (s.readBytes .v32 n a)

/-- `LinRead32` as a number. -/
def State.linRead32 (s : State) (a : Word) : Except BlockFault Word :=
  match s.linRead 4 a with
  | .error f => .error f
  | .ok bs => .ok (BitVec.ofNat 32 (leValue bs))

/-- `LinWrite32`: the four bytes are checked first, so a fault writes nothing. -/
def State.linWrite32 (s : State) (a v : Word) : Except BlockFault State :=
  match firstRefused s.config 4 a with
  | some x => .error (.vramRange x)
  | none => .ok (State.writeBytes .v32 (leBytes 4 v.toNat) a s)

/-! ### Events and results -/

/-- `emit E` (R9, R47). -/
def State.emit (s : State) (e : Event) : State := { s with trace := s.trace ++ [e] }

/-- What the operation hands back (log 3). -/
def State.answer (s : State) (r : Reply) : State := { s with reply := r }

/-! ### Faults (R129 to R136) -/

/-- An operation under way: still running, or stopped by a fault it raised; what it did before stays (R130). -/
inductive Flow where
  | on (s : State)
  | halted (s : State)
deriving DecidableEq, Repr

/-- The next part of an operation runs unless a fault has stopped it (R130). -/
def Flow.andThen (f : Flow) (k : State → Flow) : Flow :=
  match f with
  | .on s => k s
  | .halted s => .halted s

/-- TAKING A FAULT: `raise Fatal(code)` and `raise Fault(code, info)` (R130): the code and its info are recorded, the
operation stops here, the timer is not cancelled and no event is emitted. -/
def State.raise (s : State) (f : BlockFault) : Flow := .halted { s with fault := some f }

/-- How an operation ends (R129): `faulted` if it raised, else what it answered. -/
def Flow.close (f : Flow) : State :=
  match f with
  | .on s => s
  | .halted s => s.answer .faulted

/-- The block takes steps: no fault is set and it is live (R45, R46, R136). -/
def State.accepts (s : State) : Bool := s.fault.isNone && s.live

/-- An operation is run if the condition of R136 holds, else it has no step: nothing of the block changes (R129). -/
def runIf (accepted : Bool) (body : State → Flow) (s : State) : Host.Outcome State Fault Refusal :=
  if accepted then .next (body s).close else .next (s.answer .noStep)

/-- COMING BACK FROM A FAULT: the block has no trap return (R137); a fault is cleared, and a torn-down block revived, by
`RESET` alone (R45, R46, R136, R148). -/
def State.revive (s : State) : State := { s with fault := none, live := true }

end Sys2Proof.Machine
end

