-- ==== Sys2Proof/Machine/Operands.lean ====
section
/-! DEFINITION. Every operand form: fields of registers (R11, R75), the stored word of a masked register write (R82), and
the checks and the data of a guest VRAM access (R57, R61, R62, R134). -/

namespace Sys2Proof.Machine

/-! ### Fields (R11) -/

/-- `get(REG.F)` of a register's word: the field's bits, zero-extended (R11). -/
def fieldOf (r : BitRange) (w : Word) : Nat := (w.extractLsb' r.lo r.width).toNat

/-- The mask `M` of a field (R11). -/
def fieldMask (r : BitRange) : Word := (BitVec.ofNat 32 (2 ^ r.width - 1)) <<< r.lo

/-- `set(REG.F, v)` on a register's word: only the field's bits are replaced (R11). -/
def withField (r : BitRange) (v : Nat) (w : Word) : Word :=
  (w &&& ~~~ fieldMask r) ||| ((BitVec.ofNat 32 v <<< r.lo) &&& fieldMask r)

/-- `off(REG)` under the block's REGMAP (R16). -/
def State.off (s : State) (r : RegName) : Nat := s.config.regMap.offset r

/-- `REG.F` read from storage now (R9, R155). -/
def State.get (s : State) (f : FieldName) : Nat := fieldOf (s.config.regMap.bits f) (s.reg (s.off f.place.reg))

/-- A one-bit field read as a flag: set at the value 1, as the rules that read `vclk_div`, `interlace`, `hscale` and the
scaler's `interlace` compare it (R97, R98, R108, R119, R121, R127). A FIELDMAP may widen such a field, of which R36 speaks
as 0 or 1 only: any value but 1 is then clear (DEDUCED, log 27). R117 compares `fb_enable` with 0, so it is not read
through this. -/
def State.flag (s : State) (f : FieldName) : Bool := s.get f == 1

/-- The whole word of a named register. -/
def State.word (s : State) (r : RegName) : Word := s.reg (s.off r)

/-! ### Register writes (R82) -/

/-- The word a register write stores, by `MASKED_WRITE_MODE`; the mask counts bit by bit (DEDUCED, log 23). -/
def maskedWord (c : Config) (old data mask : Word) : Word :=
  match c.maskedWriteMode with
  | .verbatim => data
  | .merge => (old &&& ~~~ mask) ||| (data &&& mask)

/-- `store(o, data, mask)` (R82, R87 to R89). -/
def State.store (s : State) (o : Nat) (data mask : Word) : State :=
  s.setReg o (maskedWord s.config (s.reg o) data mask)

/-! ### Guest VRAM accesses (R134): alignment, then range, before any byte moves -/

/-- What is wrong with a guest access of `n` bytes at `a`. For an aligned access the first address out of range is `a`
itself, since `n` divides `VRAM_SIZE` (DEDUCED, log 17). -/
def guestFault (c : Config) (n : Nat) (a : Word) : Option BlockFault :=
  if a.toNat % n ≠ 0 then some (.misaligned a)
  else if vramSize < a.toNat + n ∧ c.oorPolicy = .fault then some (.vramRange a)
  else none

/-- A guest read of `n` bytes through a view (R92, R94). -/
def guestRead (v : View) (n : Nat) (a : Word) (s : State) : Flow :=
  match guestFault s.config n a with
  | some f => s.raise f
  | none => .on (s.answer (.value n (BitVec.ofNat 64 (leValue (s.readBytes v n a)))))

/-- A guest write of `n` bytes through a view (R93, R95). -/
def guestWrite (v : View) (n : Nat) (a : Word) (data : Nat) (s : State) : Flow :=
  match guestFault s.config n a with
  | some f => s.raise f
  | none => .on ((State.writeBytes v (leBytes n data) a s).answer .done)

end Sys2Proof.Machine
end

