-- ==== Sys2Proof/Machine/Flags.lean ====
section
/-! DEFINITION. Every flag the block computes (R50): the vsync flag, the field, and their mirror in `SPG_STATUS`. -/

namespace Sys2Proof.Machine

/-- `vsync_of(line)` (R106): the window `[vbstart, vbend)`, or the wraparound case when `vbstart >= vbend`. -/
def vsyncOf (vbstart vbend line : Nat) : Bool :=
  if vbstart < vbend then decide (vbstart ≤ line) && decide (line < vbend)
  else decide (vbstart ≤ line) || decide (line < vbend)

/-- The field after a vblank-in event (R108): toggled if interlaced, else 0. -/
def nextField (interlaced field : Bool) : Bool := interlaced && !field

/-- The `SPG_STATUS` word after the mirror (R110): `scanline`, `fieldnum` and `vsync` replaced, every other bit kept. -/
def mirrorWord (m : RegisterMap) (line : Nat) (field vsync : Bool) (w : Word) : Word :=
  withField (m.bits .statusVsync) vsync.toNat
    (withField (m.bits .fieldnum) field.toNat (withField (m.bits .scanline) (line % 1024) w))

end Sys2Proof.Machine
end

