-- ==== Sys2Proof/Machine/Framebuffer.lean ====
section
/-! DEFINITION. Framebuffer marking, the dirty test, extraction and the video-output-size query (43_framebuffer.md). -/

namespace Sys2Proof.Machine

/-! ### Marking (R114, R115) -/

/-- The candidate offsets, in loop order: width, depth, vertical scale (R114). -/
def candidates (c : Config) : List Nat :=
  c.markLineWidths.flatMap fun w => c.markDepthBytes.flatMap fun b => c.markVscales.map fun v => w * b * v

/-- `IS_TEXTURE_ADDR` (R5, D14). -/
def isTextureAddr (c : Config) (a : Word) : Bool := c.textureRegion.any fun p => a &&& p.1 == p.2

/-- The linear addresses marked for one base: none for a texture base, else the base and every candidate (R115). -/
def markTargets (c : Config) (base : Word) : List Word :=
  if isTextureAddr c base then [] else base :: (candidates c).map fun o => base + BitVec.ofNat 32 o

/-- The sentinel written at each address in turn; the first that is out of range stops it (R115, R134). -/
def State.markWords : List Word → State → Flow
  | [], s => .on s
  | a :: rest, s =>
    match s.linWrite32 a s.config.fbCookie with
    | .error f => s.raise f
    | .ok s' => State.markWords rest s'

/-- `mark_framebuffers()` (R115). -/
def State.markFramebuffers (s : State) : Flow :=
  s.markWords (markTargets s.config (s.word .fbWSof1) ++ markTargets s.config (s.word .fbWSof2))

/-! ### Geometry (R118 to R120) -/

/-- Bytes per pixel of a depth code; an unrecognized code has none (R118). -/
def bppOf (depth : Nat) : Option Nat :=
  if depth = 0 then some 2
  else if depth = 1 then some 2
  else if depth = 2 then some 3
  else if depth = 3 then some 4
  else none

/-- The number of fields of a frame: two if interlaced (R119, R121). -/
def State.fieldCount (s : State) : Nat := if s.flag .interlace then 2 else 1

/-- `fb_size()`: width and height, or `Fatal(DEPTH)` (R119). -/
def State.fbSize (s : State) : Except BlockFault (Nat × Nat) :=
  match bppOf (s.get .fbDepth) with
  | none => .error (.depth (s.get .fbDepth))
  | some bpp => .ok ((s.get .fbXSize + 1) * 4 / bpp, (s.get .fbYSize + 1) * s.fieldCount)

/-- `line_mod`, u32: `mod = 0` gives a step back of four bytes (R120). -/
def State.lineMod (s : State) : Word := (BitVec.ofNat 32 (s.get .fbModulus) - 1) * 4

/-! ### Pixels (R122 to R125) -/

/-- How many bytes the conversion of a pixel reads: the 32-bit format's unused byte is not read (R125;
DEDUCED, log 22). -/
def pixelBytesRead (depth : Nat) : Nat := if depth = 0 ∨ depth = 1 then 2 else 3

/-- The R, G, B bytes of a 5-5-5 halfword (R122). -/
def rgb555 (v : BitVec 16) : List Byte :=
  [(v.extractLsb' 10 5).setWidth 8 <<< 3, (v.extractLsb' 5 5).setWidth 8 <<< 3, (v.extractLsb' 0 5).setWidth 8 <<< 3]

/-- The R, G, B bytes of a 5-6-5 halfword (R123). -/
def rgb565 (v : BitVec 16) : List Byte :=
  [(v.extractLsb' 11 5).setWidth 8 <<< 3, (v.extractLsb' 5 6).setWidth 8 <<< 2, (v.extractLsb' 0 5).setWidth 8 <<< 3]

/-- The R, G, B bytes of a pixel from the bytes read for it, lowest address first (R122 to R125). -/
def pixelRgb (depth : Nat) (bs : List Byte) : List Byte :=
  if depth = 0 then rgb555 (BitVec.ofNat 16 (leValue bs))
  else if depth = 1 then rgb565 (BitVec.ofNat 16 (leValue bs))
  else bs.reverse

/-- `convert(depth, a)`: one pixel at a linear address. -/
def State.convertPixel (s : State) (depth : Nat) (a : Word) : Except BlockFault (List Byte) :=
  match s.linRead (pixelBytesRead depth) a with
  | .error f => .error f
  | .ok bs => .ok (pixelRgb depth bs)

/-! ### Extraction (R116, R117, R121, R126) -/

/-- `dirty()`: the word at `FB_R_SOF1` is not the sentinel (R116). -/
def State.dirty (s : State) : Except BlockFault Bool :=
  match s.linRead32 (s.word .fbRSof1) with
  | .error f => .error f
  | .ok w => .ok (w != s.config.fbCookie)

/-- One row: `n` pixels from `a` on, `bpp` bytes apart (R121). -/
def State.convertRow (s : State) (depth bpp : Nat) : Nat → Word → Except BlockFault (List Byte)
  | 0, _ => .ok []
  | n + 1, a =>
    match s.convertPixel depth a with
    | .error f => .error f
    | .ok px =>
      match s.convertRow depth bpp n (a + BitVec.ofNat 32 bpp) with
      | .error f => .error f
      | .ok rest => .ok (px ++ rest)

/-- The rows still to come (R121): each row is read from its field's address, and only that field's address advances.
`cur` is the address of the field the next row belongs to, `other` that of the field after it; in a frame of
one field they never change places. -/
def State.convertRows (s : State) (depth bpp width : Nat) (stride : Word) (interlaced : Bool) :
    Nat → Word → Word → Except BlockFault (List Byte)
  | 0, _, _ => .ok []
  | n + 1, cur, other =>
    match s.convertRow depth bpp width cur with
    | .error f => .error f
    | .ok row =>
      match (if interlaced then s.convertRows depth bpp width stride interlaced n other (cur + stride)
             else s.convertRows depth bpp width stride interlaced n (cur + stride) other) with
      | .error f => .error f
      | .ok rest => .ok (row ++ rest)

/-- The frame `extract()` reads from VRAM, or the fault that stops it (R121). -/
def State.readFrame (s : State) : Except BlockFault Frame :=
  match s.fbSize with
  | .error f => .error f
  | .ok (width, height) =>
    let depth := s.get .fbDepth
    let bpp := (bppOf depth).getD 0
    let stride := BitVec.ofNat 32 (width * bpp) + s.lineMod
    match s.convertRows depth bpp width stride (s.flag .interlace) height (s.word .fbRSof1) (s.word .fbRSof2) with
    | .error f => .error f
    | .ok bytes => .ok ⟨bytes, width, height⟩

/-- The frame is kept and pushed to the presentation sink (R121, R126). -/
def State.pushFrame (s : State) (fr : Frame) : State := State.emit { s with fbOut := some fr } (.pushFrame fr)

/-- `extract()` (R121). -/
def State.extract (s : State) : Flow :=
  match s.readFrame with
  | .error f => s.raise f
  | .ok fr => .on (s.pushFrame fr)

/-- `detect_and_extract()`: the dirty test, then the enable flag, then extraction (R117, D33). Extraction is skipped at
`fb_enable = 0` and at no other value that a FIELDMAP may let it have (log 27). -/
def State.detectAndExtract (s : State) : Flow :=
  match s.dirty with
  | .error f => s.raise f
  | .ok false => .on s
  | .ok true => if s.get .fbEnable = 0 then .on s else s.extract

/-! ### Video output size (R127) -/

/-- The height after the vertical scale law. -/
def scaledHeight (law : VscaleLaw) (h factor : Nat) : Except BlockFault Nat :=
  match law with
  | .mulShr10 => .ok (h * factor / 2 ^ 10)
  | .divShl10 => if factor = 0 then .error .vscaleZero else .ok (h * 2 ^ 10 / factor)

/-- The width and height the query returns, or its fault. -/
def State.videoSize (s : State) : Except BlockFault (Nat × Nat) :=
  match s.fbSize with
  | .error f => .error f
  | .ok (w, h) =>
    match scaledHeight s.config.vscaleLaw h (s.get .vscalefactor) with
    | .error f => .error f
    | .ok h' => .ok (if s.flag .hscale then w * 2 else w, if s.flag .scalerInterlace then h' / 2 else h')

/-- `VSIZE` (R127): a pure query. -/
def execVsize (s : State) : Host.Outcome State Fault Refusal :=
  runIf s.accepts (fun s =>
    match s.videoSize with
    | .error f => s.raise f
    | .ok (w, h) => .on (s.answer (.size w h))) s

end Sys2Proof.Machine
end

