-- ==== Sys2Proof/Machine/Spg.lean ====
section
/-! DEFINITION. The scanline timing state machine (42_spg.md): reconfiguration, the timer, the tick and teardown. -/

namespace Sys2Proof.Machine

/-! ### Line period and timer (R97 to R100) -/

/-- `pixel_hz` (R97). -/
def State.pixelHz (s : State) : Nat := s.config.pixelClockBaseHz * (if s.flag .vclkDiv then 2 else 1)

/-- `line_hz` (R98). -/
def State.lineHz (s : State) : Nat := s.pixelHz / (s.get .hcount + 1) * (if s.flag .interlace then 2 else 1)

/-- `schedule(d)` (R99). -/
def State.schedule (s : State) (d : Nat) : State :=
  State.emit { s with timer := some (s.now + d) } (.timerArm (s.now + d))

/-- `cancel()` (R99): the event only if a timer was outstanding. -/
def State.cancel (s : State) : State :=
  match s.timer with
  | none => s
  | some _ => State.emit { s with timer := none } .timerCancel

/-- The line period is recomputed and latched (R39, R98). -/
def State.latchPeriod (s : State) : State := { s with linePeriodNs := nsPerSec / s.lineHz }

/-- `reconfigure()` (R100). -/
def State.reconfigure (s : State) : State :=
  s.latchPeriod.cancel.schedule s.latchPeriod.linePeriodNs

/-! ### The parts of a tick (R102 to R110) -/

/-- Line advance (R102). -/
def State.stepLine (s : State) : State := { s with currentLine := (s.currentLine + 1) % (s.get .vcount + 1) }

/-- Horizontal-blank interrupt (R103): mode 0 on the comparison line, mode 2 on every line, any other mode fatal. -/
def State.stepHblank (s : State) : Flow :=
  let mode := s.get .hblankIntMode
  if mode = 0 then
    .on (if s.currentLine = s.get .lineCompVal then s.emit (.raise s.config.interrupts.hblank) else s)
  else if mode = 2 then .on (s.emit (.raise s.config.interrupts.hblank))
  else s.raise (.hblankMode mode)

/-- Vertical-blank-in interrupt (R104). -/
def State.stepVblankIn (s : State) : State :=
  if s.currentLine = s.get .vblankInLineNumber then s.emit (.raise s.config.interrupts.vblankIn) else s

/-- Vertical-blank-out interrupt (R105). -/
def State.stepVblankOut (s : State) : State :=
  if s.currentLine = s.get .vblankOutLineNumber then s.emit (.raise s.config.interrupts.vblankOut) else s

/-- The vsync flag is recomputed (R106). -/
def State.stepVsync (s : State) : State :=
  { s with vsync := vsyncOf (s.get .vbstart) (s.get .vbend) s.currentLine }

/-- The diagnostic counter (R42, R108). -/
def State.countVblank (s : State) : State :=
  State.emit { s with vblankCount := s.vblankCount + 1 } (.counterAdd s.config.vblankCounter 1)

/-- The end of a vblank-in event (R108): the field, then the notification, whose argument is the bit `blank_video` (R47):
1 at the value 1, and 0 at any other value of a field that a FIELDMAP widens (DEDUCED, log 27). -/
def State.toggleField (s : State) : State :=
  State.emit { s with field := nextField (s.flag .interlace) s.field } (.vblankIn (s.flag .blankVideo))

/-- The vblank-in event (R108): extraction only if the pipeline was not triggered this frame. -/
def State.vblankInEvent (s : State) : Flow :=
  (if s.gotStartrender then Flow.on { s.countVblank with gotStartrender := false }
   else s.countVblank.detectAndExtract).andThen fun s => .on s.toggleField

/-- The vblank-out event (R109). -/
def State.vblankOutEvent (s : State) : State := s.emit .vblankOut

/-- Edge detection against the previous vsync flag (R107). -/
def State.stepEdges (prev : Bool) (s : State) : Flow :=
  match prev, s.vsync with
  | false, true => s.vblankInEvent
  | true, false => .on s.vblankOutEvent
  | _, _ => .on s

/-- The status mirror (R110). -/
def State.stepMirror (s : State) : State :=
  s.setReg (s.off .spgStatus) (mirrorWord s.config.regMap s.currentLine s.field s.vsync (s.word .spgStatus))

/-- The three interrupts, then the vsync flag and its edges (R103 to R109). -/
def State.stepInterrupts (s : State) : Flow :=
  s.stepHblank.andThen fun s => .on s.stepVblankIn.stepVblankOut

/-- The tick of R101 from the consumption of the fired timer on, its parts in order. -/
def State.tickBody (s : State) : Flow :=
  (State.stepLine { s with timer := none }).stepInterrupts.andThen fun s₁ =>
    (s₁.stepVsync.stepEdges s₁.vsync).andThen fun s₂ =>
      .on ((s₂.stepMirror.schedule s₂.linePeriodNs).answer .done)

/-- `TICK` (R101): accepted by a live block with no fault, when virtual time is the armed deadline (R146). -/
def execTick (s : State) : Host.Outcome State Fault Refusal :=
  runIf (s.accepts && decide (s.timer = some s.now)) State.tickBody s

/-- `TEARDOWN` (R112): accepted even while a fault is set, unless already torn down (R136, R147). -/
def execTeardown (s : State) : Host.Outcome State Fault Refusal :=
  runIf s.live (fun s => .on (State.answer { s.cancel with live := false } .done)) s

end Sys2Proof.Machine
end

