-- ==== Sys2Proof/Machine/Agenda.lean ====
section
/-! DEFINITION. Whose turn it is (R6, R67, R146): the total order of the agents' moves and the scanline timer, in virtual
time. The block fetches no instructions (R49); taking the oldest move from the inbox stands in for a fetch
(log 1, log 2). Also the pseudo-instructions of R79. -/

namespace Sys2Proof.Machine

/-- The deadline the scheduler must fire: that of the timer, while the block accepts ticks (R136, R146). A fault that a
guest's operation raised leaves the timer armed (R130) and its tick refused (R136): nothing fires then, and virtual time
is held at that deadline (`State.heldAt`). -/
def State.pendingTick (s : State) : Option Nat := if s.accepts then s.timer else none

/-- What happens next. -/
inductive Turn where
  /-- nothing: no move waits and no tick can fire -/
  | nothing
  /-- the scheduler fires the timer at its deadline -/
  | fire (deadline : Nat)
  /-- a move is made at a virtual time, the others staying in the inbox -/
  | serve (move : Move) (rest : List Request) (time : Nat)
deriving DecidableEq, Repr

/-- A time, or the deadline of an armed timer if that is earlier: virtual time does not pass it before its tick (R146). -/
def State.heldAt (s : State) (t : Nat) : Nat :=
  match s.timer with
  | none => t
  | some d => min d t

/-- The virtual time at which a waiting move is made: not before now, since time never decreases (R146). An explicit
`TICK` is the scheduler's own move: time jumps to the deadline (R79; DEDUCED, log 14). Where no tick can fire, a move
issued later than a deadline that a fault left armed is made at that deadline (R146; DESIGN CHOICE, log 26). -/
def State.moveTime (s : State) (r : Request) : Nat :=
  match r.move, s.pendingTick with
  | .bus .tick, some d => max s.now d
  | _, some _ => max s.now r.time
  | _, none => max s.now (s.heldAt r.time)

/-- Whether a waiting move goes before a tick due at `d`: earlier moves do, later ones do not, and at the same time the
request itself says (R146, R160); an explicit `TICK` is that very tick. -/
def State.goesFirst (s : State) (r : Request) (d : Nat) : Bool :=
  match r.move with
  | .bus .tick => true
  | _ => decide (s.moveTime r < d) || (decide (s.moveTime r = d) && r.beforeTick)

/-- The next turn (R6, R67, R146). -/
def State.turn (s : State) : Turn :=
  match s.inbox, s.pendingTick with
  | [], none => .nothing
  | [], some d => .fire d
  | r :: rest, none => .serve r.move rest (s.moveTime r)
  | r :: rest, some d => if s.goesFirst r d then .serve r.move rest (s.moveTime r) else .fire d

/-- The virtual time at which whatever happens next happens. -/
def State.nextTime (s : State) : Option Nat :=
  match s.turn with
  | .nothing => none
  | .fire d => some d
  | .serve _ _ t => some t

/-- Both conditions of R154 (b): every move issued at or before `T` has been applied, and every tick due at or before `T`
has fired; so what happens next, if anything does, happens after `T`. A move that waits behind a later one is issued
when that one is made (log 1), and one that is held at a deadline counts there (log 26). -/
def State.appliedThrough (T : Nat) (s : State) : Bool :=
  match s.nextTime with
  | none => true
  | some t => decide (T < t)

/-- A run has ended by R154 (a): torn down, no timer, and no fault, since a faulted state is never the end of a run (R136,
R154). Of a block torn down while its fault is set (R112) R154 (a) says that the run has ended and its last paragraph
that it has not; here it has not (DESIGN CHOICE, log 25). -/
def State.ended (s : State) : Bool := !s.live && s.timer.isNone && s.fault.isNone

/-- Virtual time is moved on, by the scheduler alone (R146). -/
def State.atTime (s : State) (t : Nat) : State := { s with now := t }

/-- The oldest move is taken. -/
def State.take (s : State) (rest : List Request) : State := { s with inbox := rest }

/-- A transaction that is no operation: `Fault(BAD_MASK)`, by name (R61, R134). -/
def execReject (r : Reject) (s : State) : Host.Outcome State Fault Refusal :=
  match r with
  | .badMask mask => runIf s.accepts (fun s => s.raise (.badMask mask)) s

/-- The memory subsystem writes a byte of the buffer it owns, whatever the block's state (R44, R147, log 19); there is no
byte outside the buffer, so such a move changes nothing. -/
def State.memoryWrite (s : State) (a : Nat) (b : Byte) : State :=
  if a < vramSize then s.setVramByte a b else s

/-- A request the block serves next, ahead of the others and of a tick due now. -/
def requestNow (now : Nat) (t : Transaction) : Request := ⟨now, true, .bus t⟩

/-! ### Pseudo-instructions (R79) -/

/-- `ticks <k>`. -/
def pseudoTicks (k : Nat) : List Transaction := List.replicate k .tick

/-- The address a register name stands for: `off(name) << 2`. -/
def nameAddr (m : RegisterMap) (r : RegName) : Word := BitVec.ofNat 32 (4 * m.offset r)

/-- The transaction that reads a named register: `rd.reg <REG>`. -/
def pseudoRdReg (m : RegisterMap) (r : RegName) : Transaction := .regRd (nameAddr m r) 0xFFFFFFFF

/-- `wr.reg <REG>, <data>`, with the default mask. -/
def pseudoWrReg (m : RegisterMap) (r : RegName) (data : Word) : Transaction := .regWr (nameAddr m r) data 0xFFFFFFFF

/-- The second transaction of `wr.field <REG>.<F>, <v>`, from the word its first, `rd.reg <REG>`, returned. -/
def pseudoWrField (m : RegisterMap) (f : FieldName) (v : Nat) (w : Word) : Transaction :=
  pseudoWrReg m f.place.reg (withField (m.bits f) v w)

/-- The word `wr.fields` packs: the listed fields, every other bit zero (R79). Where a field is listed twice, or two listed
fields overlap under a FIELDMAP, the spec does not say which wins: here the first listed does (DESIGN CHOICE, log 28). -/
def packFields (m : RegisterMap) : List (FieldName × Nat) → Word
  | [] => 0
  | (f, v) :: t => withField (m.bits f) v (packFields m t)

/-- `wr.fields <REG>, F1=v1, ...`. -/
def pseudoWrFields (m : RegisterMap) (r : RegName) (l : List (FieldName × Nat)) : Transaction :=
  pseudoWrReg m r (packFields m l)

end Sys2Proof.Machine
end

