-- ==== Sys2Proof/Machine/RegisterAccess.lean ====
section
/-! DEFINITION. Register read and write dispatch (40_register_access.md): one meaning per row of R76. Handlers see the
data as written, unmasked (R91); the storing handlers store before their side effect, the triggers never
store (R90). -/

namespace Sys2Proof.Machine

/-- `REG_RD` (R80): the stored word, the mask ignored; an offset outside the register file is refused (R76). -/
def execRdReg (addr _mask : Word) (s : State) : Host.Outcome State Fault Refusal :=
  runIf s.accepts (fun s =>
    if s.config.regMap.numRegs ≤ wordOffset addr then s.raise (.regRange addr)
    else .on (s.answer (.word (s.reg (wordOffset addr))))) s

/-- A write to `ID` (R81): nothing. -/
def execWrRegId (_addr _data _mask : Word) (s : State) : Host.Outcome State Fault Refusal :=
  runIf s.accepts (fun s => .on (s.answer .done)) s

/-- A trigger's outward call, made or not (R83, R85, R86). -/
def State.emitIf (s : State) (p : Bool) (e : Event) : State := if p then s.emit e else s

/-- `SOFTRESET` (R83). -/
def execWrRegSoftreset (_addr data _mask : Word) (s : State) : Host.Outcome State Fault Refusal :=
  runIf s.accepts (fun s => .on ((s.emitIf (data.getLsbD 0) .pipelineReset).answer .done)) s

/-- `STARTRENDER` (R84): the pipeline call, then marking, then the Frame-Presented Flag. -/
def execWrRegStartrender (_addr data _mask : Word) (s : State) : Host.Outcome State Fault Refusal :=
  runIf s.accepts (fun s =>
    if data = 0 then .on (s.answer .done)
    else (s.emit .pipelineStartRender).markFramebuffers.andThen fun s =>
      .on (State.answer { s with gotStartrender := true } .done)) s

/-- `TA_LIST_INIT` (R85). -/
def execWrRegTaListInit (_addr data _mask : Word) (s : State) : Host.Outcome State Fault Refusal :=
  runIf s.accepts (fun s => .on ((s.emitIf (data.getLsbD 31) .pipelineListInit).answer .done)) s

/-- `TA_LIST_CONT` (R86). -/
def execWrRegTaListCont (_addr data _mask : Word) (s : State) : Host.Outcome State Fault Refusal :=
  runIf s.accepts (fun s => .on ((s.emitIf (data.getLsbD 31) .pipelineListCont).answer .done)) s

/-- `TA_YUV_TEX_BASE` (R87): stored, then every write notifies. -/
def execWrRegTaYuvTexBase (_addr data mask : Word) (s : State) : Host.Outcome State Fault Refusal :=
  runIf s.accepts (fun s =>
    .on (((s.store (s.off .taYuvTexBase) data mask).emit .pipelineYuvInit).answer .done)) s

/-- `SPG_LOAD` (R88): stored, then reconfiguration. -/
def execWrRegSpgLoad (_addr data mask : Word) (s : State) : Host.Outcome State Fault Refusal :=
  runIf s.accepts (fun s => .on ((s.store (s.off .spgLoad) data mask).reconfigure.answer .done)) s

/-- `FB_R_CTRL` (R89): stored, then reconfiguration. -/
def execWrRegFbRCtrl (_addr data mask : Word) (s : State) : Host.Outcome State Fault Refusal :=
  runIf s.accepts (fun s => .on ((s.store (s.off .fbRCtrl) data mask).reconfigure.answer .done)) s

/-- Plain storage (R82); an offset outside the register file is refused (R76). The decoder gives it no other offset than
those of its row (log 24). -/
def execWrReg (addr data mask : Word) (s : State) : Host.Outcome State Fault Refusal :=
  runIf s.accepts (fun s =>
    if s.config.regMap.numRegs ≤ wordOffset addr then s.raise (.regRange addr)
    else .on ((s.store (wordOffset addr) data mask).answer .done)) s

end Sys2Proof.Machine
end

