-- ==== Sys2Proof/Machine/ResetOp.lean ====
section
/-! DEFINITION. Device construction and reset (70_reset_and_hazards.md). -/

namespace Sys2Proof.Machine

/-- The registers and the flags at their reset values (R148, R149). -/
def State.resetBlock (s : State) : State :=
  { s.revive with
    regs := resetRegs s.config.regMap.numRegs s.config.regReset, gotStartrender := false, vblankCount := 0,
    fbOut := none }

/-- `reset_spg()` (R150): the timing state, then reconfiguration. -/
def State.resetSpg (s : State) : State :=
  State.reconfigure { s with currentLine := 0, field := false, vsync := false }

/-- `RESET` (R148): accepted in every state. A fresh trace, the old timer cancelled, the block's state at its reset
values; VRAM, virtual time, the parameters and the moves not yet served are not touched. -/
def execReset (s : State) : Host.Outcome State Fault Refusal :=
  runIf true (fun s => .on ((State.cancel { s with trace := [] }).resetBlock.resetSpg.answer .done)) s

end Sys2Proof.Machine
end

