-- ==== Sys2Proof/Machine/VramAccess.lean ====
section
/-! DEFINITION. Guest VRAM accesses through the two views (41_vram_access.md), one meaning per view, direction and
width, each over the shared `guestRead` or `guestWrite`. -/

namespace Sys2Proof.Machine

/-- `rd.v32.1` (R94). -/
def execRdV32x1 (addr : Word) (s : State) : Host.Outcome State Fault Refusal :=
  runIf s.accepts (guestRead .v32 1 addr) s

/-- `rd.v32.2` (R94). -/
def execRdV32x2 (addr : Word) (s : State) : Host.Outcome State Fault Refusal :=
  runIf s.accepts (guestRead .v32 2 addr) s

/-- `rd.v32.4` (R94). -/
def execRdV32x4 (addr : Word) (s : State) : Host.Outcome State Fault Refusal :=
  runIf s.accepts (guestRead .v32 4 addr) s

/-- `rd.v32.8` (R94). -/
def execRdV32x8 (addr : Word) (s : State) : Host.Outcome State Fault Refusal :=
  runIf s.accepts (guestRead .v32 8 addr) s

/-- `wr.v32.1` (R95). -/
def execWrV32x1 (addr : Word) (data : BitVec 8) (s : State) : Host.Outcome State Fault Refusal :=
  runIf s.accepts (guestWrite .v32 1 addr data.toNat) s

/-- `wr.v32.2` (R95). -/
def execWrV32x2 (addr : Word) (data : BitVec 16) (s : State) : Host.Outcome State Fault Refusal :=
  runIf s.accepts (guestWrite .v32 2 addr data.toNat) s

/-- `wr.v32.4` (R95). -/
def execWrV32x4 (addr : Word) (data : BitVec 32) (s : State) : Host.Outcome State Fault Refusal :=
  runIf s.accepts (guestWrite .v32 4 addr data.toNat) s

/-- `wr.v32.8` (R95). -/
def execWrV32x8 (addr : Word) (data : BitVec 64) (s : State) : Host.Outcome State Fault Refusal :=
  runIf s.accepts (guestWrite .v32 8 addr data.toNat) s

/-- `rd.v64.1` (R92). -/
def execRdV64x1 (addr : Word) (s : State) : Host.Outcome State Fault Refusal :=
  runIf s.accepts (guestRead .v64 1 addr) s

/-- `rd.v64.2` (R92). -/
def execRdV64x2 (addr : Word) (s : State) : Host.Outcome State Fault Refusal :=
  runIf s.accepts (guestRead .v64 2 addr) s

/-- `rd.v64.4` (R92). -/
def execRdV64x4 (addr : Word) (s : State) : Host.Outcome State Fault Refusal :=
  runIf s.accepts (guestRead .v64 4 addr) s

/-- `rd.v64.8` (R92). -/
def execRdV64x8 (addr : Word) (s : State) : Host.Outcome State Fault Refusal :=
  runIf s.accepts (guestRead .v64 8 addr) s

/-- `wr.v64.1` (R93). -/
def execWrV64x1 (addr : Word) (data : BitVec 8) (s : State) : Host.Outcome State Fault Refusal :=
  runIf s.accepts (guestWrite .v64 1 addr data.toNat) s

/-- `wr.v64.2` (R93). -/
def execWrV64x2 (addr : Word) (data : BitVec 16) (s : State) : Host.Outcome State Fault Refusal :=
  runIf s.accepts (guestWrite .v64 2 addr data.toNat) s

/-- `wr.v64.4` (R93). -/
def execWrV64x4 (addr : Word) (data : BitVec 32) (s : State) : Host.Outcome State Fault Refusal :=
  runIf s.accepts (guestWrite .v64 4 addr data.toNat) s

/-- `wr.v64.8` (R93). -/
def execWrV64x8 (addr : Word) (data : BitVec 64) (s : State) : Host.Outcome State Fault Refusal :=
  runIf s.accepts (guestWrite .v64 8 addr data.toNat) s

end Sys2Proof.Machine
end

