-- ==== Sys2Proof/Machine/Dispatch.lean ====
section
/-! DEFINITION. One arm per operation of the opcode table, each one direct call of its meaning. -/

namespace Sys2Proof.Machine

/-- The meaning of an operation at a state. -/
def exec (i : Instr) (s : State) : Host.Outcome State Fault Refusal :=
  match i with
  | .rdReg addr mask => Sys2Proof.Machine.execRdReg addr mask s
  | .wrRegId addr data mask => Sys2Proof.Machine.execWrRegId addr data mask s
  | .wrRegSoftreset addr data mask => Sys2Proof.Machine.execWrRegSoftreset addr data mask s
  | .wrRegStartrender addr data mask => Sys2Proof.Machine.execWrRegStartrender addr data mask s
  | .wrRegTaListInit addr data mask => Sys2Proof.Machine.execWrRegTaListInit addr data mask s
  | .wrRegTaListCont addr data mask => Sys2Proof.Machine.execWrRegTaListCont addr data mask s
  | .wrRegTaYuvTexBase addr data mask => Sys2Proof.Machine.execWrRegTaYuvTexBase addr data mask s
  | .wrRegSpgLoad addr data mask => Sys2Proof.Machine.execWrRegSpgLoad addr data mask s
  | .wrRegFbRCtrl addr data mask => Sys2Proof.Machine.execWrRegFbRCtrl addr data mask s
  | .wrReg addr data mask => Sys2Proof.Machine.execWrReg addr data mask s
  | .rdV32x1 addr => Sys2Proof.Machine.execRdV32x1 addr s
  | .rdV32x2 addr => Sys2Proof.Machine.execRdV32x2 addr s
  | .rdV32x4 addr => Sys2Proof.Machine.execRdV32x4 addr s
  | .rdV32x8 addr => Sys2Proof.Machine.execRdV32x8 addr s
  | .wrV32x1 addr data => Sys2Proof.Machine.execWrV32x1 addr data s
  | .wrV32x2 addr data => Sys2Proof.Machine.execWrV32x2 addr data s
  | .wrV32x4 addr data => Sys2Proof.Machine.execWrV32x4 addr data s
  | .wrV32x8 addr data => Sys2Proof.Machine.execWrV32x8 addr data s
  | .rdV64x1 addr => Sys2Proof.Machine.execRdV64x1 addr s
  | .rdV64x2 addr => Sys2Proof.Machine.execRdV64x2 addr s
  | .rdV64x4 addr => Sys2Proof.Machine.execRdV64x4 addr s
  | .rdV64x8 addr => Sys2Proof.Machine.execRdV64x8 addr s
  | .wrV64x1 addr data => Sys2Proof.Machine.execWrV64x1 addr data s
  | .wrV64x2 addr data => Sys2Proof.Machine.execWrV64x2 addr data s
  | .wrV64x4 addr data => Sys2Proof.Machine.execWrV64x4 addr data s
  | .wrV64x8 addr data => Sys2Proof.Machine.execWrV64x8 addr data s
  | .tick => Sys2Proof.Machine.execTick s
  | .reset => Sys2Proof.Machine.execReset s
  | .teardown => Sys2Proof.Machine.execTeardown s
  | .vsize => Sys2Proof.Machine.execVsize s

end Sys2Proof.Machine
end

