-- ==== Sys2Proof/Machine/Step.lean ====
section
/-! DEFINITION. One step of the whole: the next move of an agent, or the next tick (R6, R67). -/

namespace Sys2Proof.Machine

/-- A move is made: a transaction is decoded and runs, or is rejected by name; the memory subsystem writes its byte. -/
def serveMove (m : Move) (s : State) : Host.Outcome State Fault Refusal :=
  match m with
  | .bus t =>
    match decode s.config.regMap t with
    | .ok i => exec i s
    | .error r => execReject r s
  | .memoryWrite a b => .next (s.memoryWrite a b)

/-- One atomic step (R67). -/
def step (s : State) : Host.Outcome State Fault Refusal :=
  match s.turn with
  | .nothing => .fault .quiescent
  | .fire d => if s.now ≤ d then exec .tick (s.atTime d) else .fault .missedDeadline
  | .serve m rest t => serveMove m ((s.take rest).atTime t)

/-- The state with the transaction of an opcode table's row as the move the next step serves (log 2, log 15). -/
def State.withFetchWord (s : State) (nbits w : Nat) : State :=
  { s with inbox := requestNow s.now (tableTransaction nbits w) :: s.inbox }

end Sys2Proof.Machine
end

