-- ==== Sys2Proof/Safety.lean ====
section
/-! DEFINITION. What counts as a good state and a good run, in the terms the claims use. -/

namespace Sys2Proof.Machine

/-- A frame holds three bytes for every pixel (R43, R121). -/
def Frame.wf (f : Frame) : Bool := f.bytes.length == 3 * f.width * f.height

/-- The frames among the events have their three bytes a pixel (R126). -/
def Event.wf : Event → Bool
  | .pushFrame f => f.wf
  | _ => true

/-- The invariant of the block, in every state a run from a reset goes through. -/
structure State.Inv (s : State) : Prop where
  /-- VRAM is in canonical form and within the buffer -/
  vram_wf : Memory.wf s.vram = true
  /-- the register file is in canonical form and within `NUM_REGS` (R10) -/
  regs_wf : Regs.wf s.config.regMap.numRegs s.regs = true
  /-- `ID` holds `ID_VALUE` (R13) -/
  id_word : s.word .id = regResetWord s.config (s.off .id)
  /-- the trigger registers hold their reset words, since nothing stores there (R83 to R86, R90) -/
  softreset_word : s.word .softreset = regResetWord s.config (s.off .softreset)
  startrender_word : s.word .startrender = regResetWord s.config (s.off .startrender)
  listInit_word : s.word .taListInit = regResetWord s.config (s.off .taListInit)
  listCont_word : s.word .taListCont = regResetWord s.config (s.off .taListCont)
  /-- the line fits the counter: it is below `vcount + 1` for some value of the `vcount` field, which is below 1024 in the
  default map (R38, R102) -/
  line_lt : s.currentLine < 2 ^ (s.config.regMap.bits .vcount).width
  /-- no line period is zero, so virtual time never stands still under ticks (R161) -/
  period_pos : 0 < s.linePeriodNs
  /-- while the block takes steps exactly one timer is outstanding (R40, R111) -/
  timer_armed : s.accepts = true → ∃ d, s.timer = some d
  /-- virtual time has not passed an armed deadline, a faulted block's included (R146) -/
  deadline_ahead : ∀ d, s.timer = some d → s.now ≤ d
  /-- the output buffer holds a whole frame (R43) -/
  fbOut_wf : ∀ f, s.fbOut = some f → f.wf = true
  /-- so does every frame pushed (R126) -/
  trace_wf : s.trace.all Event.wf = true

/-- The rows of the opcode table that read VRAM: view, width in bytes, operation. -/
def readRows (addr : Word) : List (View × Nat × Instr) :=
  [(.v32, 1, .rdV32x1 addr), (.v32, 2, .rdV32x2 addr), (.v32, 4, .rdV32x4 addr), (.v32, 8, .rdV32x8 addr),
   (.v64, 1, .rdV64x1 addr), (.v64, 2, .rdV64x2 addr), (.v64, 4, .rdV64x4 addr), (.v64, 8, .rdV64x8 addr)]

/-- The rows that write VRAM, with the low `8n` bits of the bus data as their data (R75). -/
def writeRows (addr : Word) (data : DWord) : List (View × Nat × Instr) :=
  [(.v32, 1, .wrV32x1 addr (data.setWidth 8)), (.v32, 2, .wrV32x2 addr (data.setWidth 16)),
   (.v32, 4, .wrV32x4 addr (data.setWidth 32)), (.v32, 8, .wrV32x8 addr data),
   (.v64, 1, .wrV64x1 addr (data.setWidth 8)), (.v64, 2, .wrV64x2 addr (data.setWidth 16)),
   (.v64, 4, .wrV64x4 addr (data.setWidth 32)), (.v64, 8, .wrV64x8 addr data)]

/-- The line a tick goes to (R102). -/
def State.nextLine (s : State) : Nat := (s.currentLine + 1) % (s.get .vcount + 1)

/-- The interrupt events of a tick that goes to a line, in the order of R139. -/
def State.lineEvents (s : State) (line : Nat) : List Event :=
  (if s.get .hblankIntMode = 2 ∨ (s.get .hblankIntMode = 0 ∧ line = s.get .lineCompVal)
    then [.raise s.config.interrupts.hblank] else []) ++
  (if line = s.get .vblankInLineNumber then [.raise s.config.interrupts.vblankIn] else []) ++
  (if line = s.get .vblankOutLineNumber then [.raise s.config.interrupts.vblankOut] else [])

/-- The vsync flag of a line, as R106 words it. -/
def State.vsyncAt (s : State) (line : Nat) : Prop :=
  if s.get .vbstart < s.get .vbend then s.get .vbstart ≤ line ∧ line < s.get .vbend
  else s.get .vbstart ≤ line ∨ line < s.get .vbend

/-- What the mirror of a tick from `s` to `t` makes of a `SPG_STATUS` word (R110). -/
def State.mirror (s t : State) (w : Word) : Word := mirrorWord s.config.regMap t.currentLine t.field t.vsync w

/-- The notification that ends a vblank-in event (R108). -/
def Event.isVblankIn : Event → Bool
  | .vblankIn _ => true
  | _ => false

/-- The vblank-out event (R109). -/
def Event.isVblankOut : Event → Bool
  | .vblankOut => true
  | _ => false

/-- A run from `s` to the horizon `T` ends in `t` (R154 (b)): `t` is the first state of the run in which every move issued
at or before `T` has been applied and every tick due at or before `T` has fired, and it is no faulted state. -/
def EndsAtHorizon (T : Nat) (s t : State) : Prop :=
  ∃ k, Host.Core.run Sys2Proof.core k s = .next t ∧ t.appliedThrough T = true ∧ t.fault = none ∧
    ∀ j < k, ∀ u : State, Host.Core.run Sys2Proof.core j s = .next u → u.appliedThrough T = false

end Sys2Proof.Machine
end

