-- ==== Sys2Proof/Certificates/Slice0/Obligations.lean ====
section
/-! DEFINITION. What is claimed of the block, for the provers. Every statement is about every state (and so about every
configuration, every VRAM content and every draw of `VRAM_INIT`) that meets its hypotheses. -/

open Sys2Proof Sys2Proof.Machine

/-! ### Encoding and decoding -/

/-- Every well-formed operation decodes from its own transaction, with every operand at every value, under every NUM_REGS
and REGMAP (R5, R72 to R78). -/
def Obligations.EncodeThenDecodeReturnsInstruction : Prop :=
  ∀ (m : RegisterMap) (i : Instr), i.wellFormed m = true → decode m (encode i) = .ok i

/-- What the decoder reads is well-formed, and no operand bit of a transaction without surplus data is dropped. -/
def Obligations.DecodedInstructionIsWellFormedAndComplete : Prop :=
  ∀ (m : RegisterMap) (t : Transaction) (i : Instr), decode m t = .ok i →
    i.wellFormed m = true ∧ decode m (encode i) = .ok i ∧
      (match t with
        | .v32Wr addr mask data => encode i = .v32Wr addr mask (data &&& mask)
        | .v64Wr addr mask data => encode i = .v64Wr addr mask (data &&& mask)
        | t => encode i = t)

/-- R76: the order of the rows, by word offset under every NUM_REGS and REGMAP, and the refusal of row 1. -/
def Obligations.RegisterTransactionsDecodeInRowOrder : Prop :=
  (∀ (m : RegisterMap) (addr data mask : Word),
    let o := addr.toNat / 4
    decode m (.regWr addr data mask) = .ok
      (if m.numRegs ≤ o then .wrReg addr data mask
       else if o = m.offset .id then .wrRegId addr data mask
       else if o = m.offset .softreset then .wrRegSoftreset addr data mask
       else if o = m.offset .startrender then .wrRegStartrender addr data mask
       else if o = m.offset .taListInit then .wrRegTaListInit addr data mask
       else if o = m.offset .taListCont then .wrRegTaListCont addr data mask
       else if o = m.offset .taYuvTexBase then .wrRegTaYuvTexBase addr data mask
       else if o = m.offset .spgLoad then .wrRegSpgLoad addr data mask
       else if o = m.offset .fbRCtrl then .wrRegFbRCtrl addr data mask
       else .wrReg addr data mask)) ∧
  (∀ (m : RegisterMap) (addr mask : Word), decode m (.regRd addr mask) = .ok (.rdReg addr mask)) ∧
  (∀ (s : State) (addr data mask : Word), s.accepts = true → s.config.regMap.numRegs ≤ addr.toNat / 4 →
    (∃ t, exec (.wrReg addr data mask) s = .next t ∧
      t = { s with fault := some (.regRange addr), reply := t.reply }) ∧
    ∃ t, exec (.rdReg addr mask) s = .next t ∧ t = { s with fault := some (.regRange addr), reply := t.reply })

/-- Transactions written out from the spec's programs (95_test_vectors.md Part 3) and the operations they are. -/
def Obligations.SpecTransactionsDecode : Prop :=
  decode defaultMap (.regWr 0x0D8 0x00050359 0xFFFFFFFF) = .ok (.wrRegSpgLoad 0x0D8 0x00050359 0xFFFFFFFF) ∧
  decode defaultMap (.regWr 0x0C8 0x00000005 0xFFFFFFFF) = .ok (.wrReg 0x0C8 0x00000005 0xFFFFFFFF) ∧
  decode defaultMap (.regRd 0x10C 0xFFFFFFFF) = .ok (.rdReg 0x10C 0xFFFFFFFF) ∧
  decode defaultMap (.v32Wr 0x100 0xFFFFFFFF 0x001FF800) = .ok (.wrV32x4 0x100 0x001FF800) ∧
  decode defaultMap (.v64Rd 0x2000 0xFFFFFFFFFFFFFFFF) = .ok (.rdV64x8 0x2000) ∧
  decode defaultMap (.v32Rd 0x1002 0xFFFFFFFF) = .ok (.rdV32x4 0x1002) ∧
  decode defaultMap (.v32Rd 0x1 0xFFF) = .error (.badMask 0xFFF) ∧
  decode defaultMap .tick = .ok .tick

/-- R61: `2^(8n)-1` for `n` in 1, 2, 4, 8 selects the width, the data is the low `8n` bits, any other mask is refused with
`BAD_MASK`; a register transaction's mask is accepted whatever its value. -/
def Obligations.VramMaskSelectsWidthOrIsRefused : Prop :=
  (∀ (m : RegisterMap) (addr : Word) (data : DWord),
    decode m (.v32Rd addr 0xFF) = .ok (.rdV32x1 addr) ∧ decode m (.v32Rd addr 0xFFFF) = .ok (.rdV32x2 addr) ∧
    decode m (.v32Rd addr 0xFFFFFFFF) = .ok (.rdV32x4 addr) ∧
    decode m (.v32Rd addr 0xFFFFFFFFFFFFFFFF) = .ok (.rdV32x8 addr) ∧
    decode m (.v64Rd addr 0xFF) = .ok (.rdV64x1 addr) ∧ decode m (.v64Rd addr 0xFFFF) = .ok (.rdV64x2 addr) ∧
    decode m (.v64Rd addr 0xFFFFFFFF) = .ok (.rdV64x4 addr) ∧
    decode m (.v64Rd addr 0xFFFFFFFFFFFFFFFF) = .ok (.rdV64x8 addr) ∧
    decode m (.v32Wr addr 0xFF data) = .ok (.wrV32x1 addr (data.extractLsb' 0 8)) ∧
    decode m (.v32Wr addr 0xFFFF data) = .ok (.wrV32x2 addr (data.extractLsb' 0 16)) ∧
    decode m (.v32Wr addr 0xFFFFFFFF data) = .ok (.wrV32x4 addr (data.extractLsb' 0 32)) ∧
    decode m (.v32Wr addr 0xFFFFFFFFFFFFFFFF data) = .ok (.wrV32x8 addr data) ∧
    decode m (.v64Wr addr 0xFF data) = .ok (.wrV64x1 addr (data.extractLsb' 0 8)) ∧
    decode m (.v64Wr addr 0xFFFF data) = .ok (.wrV64x2 addr (data.extractLsb' 0 16)) ∧
    decode m (.v64Wr addr 0xFFFFFFFF data) = .ok (.wrV64x4 addr (data.extractLsb' 0 32)) ∧
    decode m (.v64Wr addr 0xFFFFFFFFFFFFFFFF data) = .ok (.wrV64x8 addr data)) ∧
  (∀ (s : State) (addr : Word) (mask data : DWord), s.accepts = true →
    mask ∉ ([0xFF, 0xFFFF, 0xFFFFFFFF, 0xFFFFFFFFFFFFFFFF] : List DWord) →
    ∀ x ∈ [Transaction.v32Rd addr mask, .v32Wr addr mask data, .v64Rd addr mask, .v64Wr addr mask data],
      ∃ t, serveMove (.bus x) s = .next t ∧ t = { s with fault := some (.badMask mask), reply := t.reply }) ∧
  (∀ (m : RegisterMap) (addr data mask : Word),
    (∃ i, decode m (.regRd addr mask) = .ok i) ∧ ∃ i, decode m (.regWr addr data mask) = .ok i)

/-! ### The step -/

/-- The model's own step (log 1, log 2, log 19): a waiting move that goes first, whatever it is, is served at the state
with that move taken from the inbox and virtual time moved on to it; a transaction that decodes to `i` is one `exec i`
there, one that does not decode is refused by name, and a memory-subsystem write changes its byte of VRAM and nothing
else. -/
def Obligations.StepRunsTheDecodedMove : Prop :=
  ∀ (s : State) (r : Request) (rest : List Request), s.inbox = r :: rest →
    (∀ d, s.pendingTick = some d → s.goesFirst r d = true) →
    step s = serveMove r.move { s with inbox := rest, now := s.moveTime r } ∧
    (∀ t i, r.move = .bus t → decode s.config.regMap t = .ok i →
      step s = exec i { s with inbox := rest, now := s.moveTime r }) ∧
    (∀ x mask, r.move = .bus x → decode s.config.regMap x = .error (.badMask mask) → ∃ t, step s = .next t ∧
      t = { s with
        inbox := rest, now := s.moveTime r, fault := if s.accepts then some (.badMask mask) else s.fault,
        reply := t.reply }) ∧
    (∀ a b, r.move = .memoryWrite a b → a < 0x800000 → ∃ t, step s = .next t ∧
      t = { s with inbox := rest, now := s.moveTime r, vram := t.vram } ∧
      t.vramByte a = b ∧ ∀ k, k ≠ a → t.vramByte k = s.vramByte k)

/-- R146: an armed deadline of a block that takes steps is fired at that time, when nothing waits or what waits first is
a guest or host move due later, or due at that very time and put after the tick. -/
def Obligations.StepFiresTheTimerAtItsDeadline : Prop :=
  ∀ (s : State) (d : Nat), s.accepts = true → s.timer = some d → s.now ≤ d →
    (s.inbox = [] ∨ ∃ r rest, s.inbox = r :: rest ∧ r.move ≠ .bus .tick ∧
      (d < r.time ∨ (max s.now r.time = d ∧ r.beforeTick = false))) →
    step s = exec .tick { s with now := d }

/-- R160, R146: a move issued at exactly the deadline runs before the tick or after it, as its own bit says (log 1); both
orders are runs of the model, and in both the move is made at that time. -/
def Obligations.MoveAtTheDeadlineRunsBeforeOrAfterTheTick : Prop :=
  ∀ (s : State) (d : Nat) (r : Request) (rest : List Request), s.accepts = true → s.timer = some d → s.now ≤ d →
    r.time = d → r.move ≠ .bus .tick → s.inbox = r :: rest →
    (r.beforeTick = true → step s = serveMove r.move { s with inbox := rest, now := d }) ∧
    (r.beforeTick = false → step s = exec .tick { s with now := d })

/-- R146: `now` never decreases, and does not pass an armed deadline, of a faulted block or any other. That a move issued at
or after the deadline that a fault left armed is made at that deadline is the model's choice (log 26). -/
def Obligations.VirtualTimeRespectsTheDeadline : Prop :=
  (∀ s t : State, step s = .next t → s.now ≤ t.now ∧ ∀ d, s.timer = some d → s.now ≤ d → t.now ≤ d) ∧
  ∀ (s : State) (d : Nat) (r : Request) (rest : List Request), s.accepts = false → s.timer = some d → s.now ≤ d →
    d ≤ r.time → s.inbox = r :: rest → step s = serveMove r.move { s with inbox := rest, now := d }

/-- Every operation ends in a next state: completed or a benign no-op (R129), or, by the model's own choice, a recorded
fault (log 2) or no step (log 3). -/
def Obligations.EveryOperationEndsInANextState : Prop :=
  ∀ (i : Instr) (s : State), ∃ t, exec i s = .next t ∧ t.config = s.config ∧ t.now = s.now ∧ t.inbox = s.inbox

/-- R136, with "no step" as the model has it (log 3): while a fault is set only `RESET` and `TEARDOWN` are accepted, while
not live only `RESET`; every other operation has no step: nothing of the block changes. -/
def Obligations.FaultedOrTornDownBlockTakesNoStep : Prop :=
  (∀ (s : State) (i : Instr), s.fault ≠ none → i ≠ .reset → i ≠ .teardown →
    exec i s = .next { s with reply := .noStep }) ∧
  (∀ (s : State) (i : Instr), s.live = false → i ≠ .reset → exec i s = .next { s with reply := .noStep })

/-- R129, and the model's own field `reply` (log 3): an operation answers that it had no step only when nothing changed,
and that it faulted exactly when it recorded a fault; `RESET` always completes. -/
def Obligations.TheReplySaysHowTheOperationEnded : Prop :=
  ∀ (i : Instr) (s t : State), exec i s = .next t →
    (t.reply = .noStep → t = { s with reply := .noStep }) ∧
    (t.reply = .faulted ↔ s.fault = none ∧ t.fault ≠ none) ∧ (i = .reset → t.reply = .done)

/-! ### Registers -/

/-- The default map, which the model takes from the spec's general knowledge (log 10, PRESUMED): the size of the register
file (R5), the places of the registers that the opcode table's match bits name (R16), and where the fields the rules
read stand, as arithmetic on the stored word (R21, R23 to R26, R28, R29, R31, R33, R34). -/
def Obligations.FieldsReadTheirBits : Prop :=
  defaultMap.numRegs = 2048 ∧
  (∀ e ∈ ([(.id, 0x000), (.softreset, 0x008), (.startrender, 0x014), (.taListInit, 0x144), (.taListCont, 0x160),
    (.taYuvTexBase, 0x148), (.spgLoad, 0x0D8), (.fbRCtrl, 0x044)] : List (RegName × Nat)),
    defaultMap.offset e.1 = e.2 / 4) ∧
  ∀ s : State, s.config.regMap = defaultMap →
    ∀ e ∈ ([(.fbEnable, 0x044, 0, 1), (.fbDepth, 0x044, 2, 2), (.vclkDiv, 0x044, 23, 1),
      (.fbXSize, 0x05C, 0, 10), (.fbYSize, 0x05C, 10, 10), (.fbModulus, 0x05C, 20, 10),
      (.lineCompVal, 0x0C8, 0, 10), (.hblankIntMode, 0x0C8, 12, 2), (.vblankInLineNumber, 0x0CC, 0, 10),
      (.vblankOutLineNumber, 0x0CC, 16, 10), (.interlace, 0x0D0, 4, 1), (.hcount, 0x0D8, 0, 10),
      (.vcount, 0x0D8, 16, 10), (.vbstart, 0x0DC, 0, 10), (.vbend, 0x0DC, 16, 10), (.blankVideo, 0x0E8, 3, 1),
      (.vscalefactor, 0x0F4, 0, 16), (.hscale, 0x0F4, 16, 1), (.scalerInterlace, 0x0F4, 17, 1),
      (.scanline, 0x10C, 0, 10), (.fieldnum, 0x10C, 10, 1), (.statusVsync, 0x10C, 13, 1)] :
      List (FieldName × Nat × Nat × Nat)),
    s.get e.1 = (s.reg (e.2.1 / 4)).toNat / 2 ^ e.2.2.1 % 2 ^ e.2.2.2

/-- R11: under every REGMAP and FIELDMAP a field reads as its bits of its register's word, zero-extended; writing it
replaces those bits by the low bits of the value and leaves every other bit of the word. -/
def Obligations.FieldWriteReplacesOnlyItsBits : Prop :=
  (∀ (s : State) (f : FieldName),
    let b := s.config.regMap.bits f
    s.get f = (s.reg (s.config.regMap.offset f.place.reg)).toNat / 2 ^ b.lo % 2 ^ (b.hi - b.lo + 1)) ∧
  ∀ (m : RegisterMap) (f : FieldName) (v : Nat) (w : Word),
    let b := m.bits f
    fieldOf b (withField b v w) = v % 2 ^ (b.hi - b.lo + 1) ∧
    ∀ i < 32, i < b.lo ∨ b.hi < i → (withField b v w).getLsbD i = w.getLsbD i

/-- R80: a read returns the stored word (in `reply`, log 3), ignoring the mask and address bits 1:0, and changes nothing;
under the invariant `ID` reads `ID_VALUE` and the four trigger registers read their reset words. -/
def Obligations.RegisterReadReturnsTheStoredWord : Prop :=
  (∀ (s : State) (addr mask : Word), s.accepts = true → addr.toNat / 4 < s.config.regMap.numRegs →
    exec (.rdReg addr mask) s = .next { s with reply := .word (s.reg (addr.toNat / 4)) }) ∧
  (∀ (s : State) (addr mask : Word), s.Inv → s.accepts = true →
    addr.toNat / 4 ∈ ([.id, .softreset, .startrender, .taListInit, .taListCont] : List RegName).map s.off →
    exec (.rdReg addr mask) s = .next { s with reply := .word (regResetWord s.config (addr.toNat / 4)) })

/-- R81: a write to `ID` changes nothing. -/
def Obligations.IdWriteIsIgnored : Prop :=
  ∀ (s : State) (addr data mask : Word), s.accepts = true →
    ∃ t, exec (.wrRegId addr data mask) s = .next t ∧ t = { s with reply := t.reply }

/-- R82: at every offset of plain storage the word becomes the data, or the data merged under the mask; nothing else
changes. -/
def Obligations.PlainRegisterWriteStores : Prop :=
  ∀ (s : State) (addr data mask : Word), s.accepts = true → addr.toNat / 4 < s.config.regMap.numRegs →
    (Instr.wrReg addr data mask).wellFormed s.config.regMap = true →
    ∃ t, exec (.wrReg addr data mask) s = .next t ∧ t = { s with regs := t.regs, reply := t.reply } ∧
      (s.config.maskedWriteMode = .verbatim → t.reg (addr.toNat / 4) = data) ∧
      (s.config.maskedWriteMode = .merge →
        t.reg (addr.toNat / 4) = (s.reg (addr.toNat / 4) &&& ~~~ mask) ||| (data &&& mask)) ∧
      ∀ o, o ≠ addr.toNat / 4 → t.reg o = s.reg o

/-- R83, R85, R86: a trigger register makes its one pipeline call when its bit of the data as written is set, else none;
it never stores, and nothing else changes. -/
def Obligations.TriggerWritesCallThePipelineAndNeverStore : Prop :=
  ∀ (s : State) (addr data mask : Word), s.accepts = true →
    (∃ t, exec (.wrRegSoftreset addr data mask) s = .next t ∧ t = { s with
      trace := s.trace ++ (if data.getLsbD 0 then [.pipelineReset] else []), reply := t.reply }) ∧
    (∃ t, exec (.wrRegTaListInit addr data mask) s = .next t ∧ t = { s with
      trace := s.trace ++ (if data.getLsbD 31 then [.pipelineListInit] else []), reply := t.reply }) ∧
    ∃ t, exec (.wrRegTaListCont addr data mask) s = .next t ∧ t = { s with
      trace := s.trace ++ (if data.getLsbD 31 then [.pipelineListCont] else []), reply := t.reply }

/-- R87: stored as R82 says, then every write notifies the pipeline; nothing else changes. -/
def Obligations.YuvBaseWriteStoresThenNotifies : Prop :=
  ∀ (s : State) (addr data mask : Word), s.accepts = true →
    ∃ t, exec (.wrRegTaYuvTexBase addr data mask) s = .next t ∧
      t = { s with regs := t.regs, trace := s.trace ++ [.pipelineYuvInit], reply := t.reply } ∧
      (s.config.maskedWriteMode = .verbatim → t.reg (s.off .taYuvTexBase) = data) ∧
      (s.config.maskedWriteMode = .merge →
        t.reg (s.off .taYuvTexBase) = (s.reg (s.off .taYuvTexBase) &&& ~~~ mask) ||| (data &&& mask)) ∧
      ∀ o, o ≠ s.off .taYuvTexBase → t.reg o = s.reg o

/-- R88, R89, R97, R98, R100: the word is stored, then the line period is recomputed from the new registers and latched,
an outstanding timer is cancelled and one is armed a full period from now; nothing else changes. -/
def Obligations.TimingRegisterWritesReconfigure : Prop :=
  ∀ (s : State) (addr data mask : Word), s.accepts = true →
    ∀ p ∈ [(s.off .spgLoad, Instr.wrRegSpgLoad addr data mask), (s.off .fbRCtrl, Instr.wrRegFbRCtrl addr data mask)],
      ∃ t, exec p.2 s = .next t ∧
        t.linePeriodNs = 1000000000 /
          (s.config.pixelClockBaseHz * (if t.get .vclkDiv = 1 then 2 else 1) / (t.get .hcount + 1) *
            (if t.get .interlace = 1 then 2 else 1)) ∧
        t = { s with
          regs := t.regs, linePeriodNs := t.linePeriodNs, timer := some (s.now + t.linePeriodNs),
          trace := s.trace ++ (if s.timer = none then [] else [.timerCancel]) ++ [.timerArm (s.now + t.linePeriodNs)],
          reply := t.reply } ∧
        (s.config.maskedWriteMode = .verbatim → t.reg p.1 = data) ∧
        (s.config.maskedWriteMode = .merge → t.reg p.1 = (s.reg p.1 &&& ~~~ mask) ||| (data &&& mask)) ∧
        ∀ o, o ≠ p.1 → t.reg o = s.reg o

/-- R98, R162: the line periods of the spec's table under the default clock (log 9). -/
def Obligations.LinePeriodsOfTheTimingTable : Prop :=
  ∀ s : State, s.config.pixelClockBaseHz = 13500000 →
    ∀ e ∈ ([(857, 0, 0, 63556), (857, 0, 1, 31778), (857, 1, 0, 31778), (857, 1, 1, 15889), (863, 0, 0, 64000),
        (863, 0, 1, 32000), (0, 1, 1, 18)] : List (Nat × Nat × Nat × Nat)),
      s.get .hcount = e.1 → s.get .vclkDiv = e.2.1 → s.get .interlace = e.2.2.1 →
      s.reconfigure.linePeriodNs = e.2.2.2 ∧ s.reconfigure.timer = some (s.now + e.2.2.2)

/-- R84, R115: a write of zero does nothing; any other, when every byte to be marked may be accessed, calls the pipeline,
marks and sets the flag. A byte of VRAM afterwards is a byte of the sentinel that a marked word puts there, or,
outside the marked words, what it was; nothing else changes. -/
def Obligations.StartRenderMarksThenSetsTheFlag : Prop :=
  (∀ (s : State) (addr mask : Word), s.accepts = true →
    ∃ t, exec (.wrRegStartrender addr 0 mask) s = .next t ∧ t = { s with reply := t.reply }) ∧
  (∀ (s : State) (addr data mask : Word), s.accepts = true → data ≠ 0 →
    let targets := markTargets s.config (s.word .fbWSof1) ++ markTargets s.config (s.word .fbWSof2)
    (∀ a ∈ targets, ∀ i < 4, addrAllowed s.config (a + BitVec.ofNat 32 i) = true) →
    ∃ t, exec (.wrRegStartrender addr data mask) s = .next t ∧
      t = { s with
        vram := t.vram, gotStartrender := true, trace := s.trace ++ [.pipelineStartRender], reply := t.reply } ∧
      ∀ k, ((∀ a ∈ targets, ∀ i < 4, vramIndex .v32 (a + BitVec.ofNat 32 i) ≠ k) → t.vramByte k = s.vramByte k) ∧
        ((∃ a ∈ targets, ∃ i < 4, vramIndex .v32 (a + BitVec.ofNat 32 i) = k) →
          ∃ a ∈ targets, ∃ i < 4, vramIndex .v32 (a + BitVec.ofNat 32 i) = k ∧
            t.vramByte k = s.config.fbCookie.extractLsb' (8 * i) 8))

/-- R115, R116: where the marked addresses are multiples of four, every marked word reads back as the sentinel, so the
dirty test at a marked base finds it clean. -/
def Obligations.AlignedMarksReadAsTheSentinel : Prop :=
  ∀ (s t : State) (addr data mask : Word), s.accepts = true → data ≠ 0 →
    let targets := markTargets s.config (s.word .fbWSof1) ++ markTargets s.config (s.word .fbWSof2)
    (∀ a ∈ targets, a.toNat % 4 = 0) →
    exec (.wrRegStartrender addr data mask) s = .next t → t.fault = none →
    (∀ a ∈ targets, t.linRead32 a = .ok s.config.fbCookie) ∧
    (s.word .fbRSof1 ∈ targets → t.dirty = .ok false)

/-- R84, R115, R134: the first marked word with a byte out of range stops the write at that byte's address (log 20): the
pipeline call has been made, the words before it stay marked, the flag and everything else are as they were. -/
def Obligations.OutOfRangeMarkStopsStartRender : Prop :=
  ∀ (s : State) (addr data mask x : Word) (a : Word) (before after : List Word), s.accepts = true → data ≠ 0 →
    markTargets s.config (s.word .fbWSof1) ++ markTargets s.config (s.word .fbWSof2) = before ++ a :: after →
    (∀ b ∈ before, ∀ i < 4, addrAllowed s.config (b + BitVec.ofNat 32 i) = true) →
    (∃ i < 4, x = a + BitVec.ofNat 32 i ∧ addrAllowed s.config x = false ∧
      ∀ j < i, addrAllowed s.config (a + BitVec.ofNat 32 j) = true) →
    ∃ t, exec (.wrRegStartrender addr data mask) s = .next t ∧
      t = { s with
        vram := t.vram, trace := s.trace ++ [.pipelineStartRender], fault := some (.vramRange x),
        reply := t.reply } ∧
      ∀ k, ((∀ b ∈ before, ∀ i < 4, vramIndex .v32 (b + BitVec.ofNat 32 i) ≠ k) → t.vramByte k = s.vramByte k) ∧
        ((∃ b ∈ before, ∃ i < 4, vramIndex .v32 (b + BitVec.ofNat 32 i) = k) →
          ∃ b ∈ before, ∃ i < 4, vramIndex .v32 (b + BitVec.ofNat 32 i) = k ∧
            t.vramByte k = s.config.fbCookie.extractLsb' (8 * i) 8)

/-- R114, R115: under the default parameters (log 9, log 12) a base in the texture region is skipped whole, and any other
base is marked with its twelve candidates in loop order. -/
def Obligations.DefaultMarkTargetsAreTheTwelveCandidates : Prop :=
  ∀ base : Word,
    (base.getLsbD 24 = true → markTargets defaultConfig base = []) ∧
    (base.getLsbD 24 = false → markTargets defaultConfig base =
      [base, base + 1280, base + 2560, base + 1920, base + 3840, base + 2560, base + 5120, base + 640, base + 1280,
        base + 960, base + 1920, base + 1280, base + 2560])

/-! ### VRAM -/

/-- R54, R56: the two forms of the translator's formula agree on every address of the linear view, its inverse likewise,
and each undoes the other on `[0, VRAM_SIZE)`. -/
def Obligations.TranslatorIsItsFormulaAndABijection : Prop :=
  ∀ a : Word, a.toNat < 0x800000 →
    map32 a = ((a &&& 0x003FFFFC) <<< 1) ||| ((a &&& 0x00400000) >>> 20) ||| (a &&& 0x00000003) ∧
    unmap32 a = ((a &&& 0x007FFFF8) >>> 1) ||| ((a &&& 0x00000004) <<< 20) ||| (a &&& 0x00000003) ∧
    (map32 a).toNat < 0x800000 ∧ (unmap32 a).toNat < 0x800000 ∧
    unmap32 (map32 a) = a ∧ map32 (unmap32 a) = a

/-- R55: word `k` of bank 0 takes interleaved bytes `8k .. 8k+3` and word `k` of bank 1 bytes `8k+4 .. 8k+7`, the byte
order inside a word kept; R52, R57: the views place an address where the buffer has it, taken modulo `VRAM_SIZE`, and an
access at an address may go on when it is below `VRAM_SIZE` or `OOR_POLICY` is `wrap`. -/
def Obligations.BankWordsInterleaveEveryFourBytes : Prop :=
  (∀ k j : Nat, k < 2 ^ 20 → j < 4 →
    map32 (BitVec.ofNat 32 (4 * k + j)) = BitVec.ofNat 32 (8 * k + j) ∧
    map32 (BitVec.ofNat 32 (0x400000 + 4 * k + j)) = BitVec.ofNat 32 (8 * k + 4 + j)) ∧
  (∀ a : Word, a.toNat < 0x800000 → vramIndex .v64 a = a.toNat ∧ vramIndex .v32 a = (map32 a).toNat) ∧
  (∀ a : Word, vramIndex .v64 a = a.toNat % 0x800000 ∧
    vramIndex .v32 a = (map32 (BitVec.ofNat 32 (a.toNat % 0x800000))).toNat) ∧
  ∀ (c : Config) (a : Word), addrAllowed c a = true ↔ a.toNat < 0x800000 ∨ c.oorPolicy = .wrap

/-- R92, R94: an aligned read in range (or under `wrap`) returns its bytes (in `reply`, log 3), the lowest address least
significant, the rest zero, and changes nothing. -/
def Obligations.GuestReadReturnsLittleEndianBytes : Prop :=
  ∀ (s : State) (addr : Word), ∀ p ∈ readRows addr, s.accepts = true → addr.toNat % p.2.1 = 0 →
    (addr.toNat + p.2.1 ≤ 0x800000 ∨ s.config.oorPolicy = .wrap) →
    ∃ v : DWord, exec p.2.2 s = .next { s with reply := .value p.2.1 v } ∧
      ∀ j < 8, v.extractLsb' (8 * j) 8 =
        if j < p.2.1 then s.vramByte (vramIndex p.1 (addr + BitVec.ofNat 32 j)) else 0

/-- R93, R95: an aligned write in range (or under `wrap`) stores its bytes, the least significant at the lowest address,
and changes nothing else. -/
def Obligations.GuestWriteStoresItsBytesAndNothingElse : Prop :=
  ∀ (s : State) (addr : Word) (data : DWord), ∀ p ∈ writeRows addr data, s.accepts = true →
    addr.toNat % p.2.1 = 0 → (addr.toNat + p.2.1 ≤ 0x800000 ∨ s.config.oorPolicy = .wrap) →
    ∃ t, exec p.2.2 s = .next t ∧ t = { s with vram := t.vram, reply := t.reply } ∧
      (∀ j < p.2.1, t.vramByte (vramIndex p.1 (addr + BitVec.ofNat 32 j)) = data.extractLsb' (8 * j) 8) ∧
      ∀ k, (∀ j < p.2.1, vramIndex p.1 (addr + BitVec.ofNat 32 j) ≠ k) → t.vramByte k = s.vramByte k

/-- R57, R62, R134: a misaligned guest access is refused, else one out of range under `fault`, with its own address as the
first out of range (log 17); nothing but the recorded fault changes. -/
def Obligations.GuestAccessFaultsBeforeAnyByteMoves : Prop :=
  ∀ (s : State) (addr : Word) (data : DWord), ∀ p ∈ readRows addr ++ writeRows addr data, s.accepts = true →
    (addr.toNat % p.2.1 ≠ 0 →
      ∃ t, exec p.2.2 s = .next t ∧ t = { s with fault := some (.misaligned addr), reply := t.reply }) ∧
    (addr.toNat % p.2.1 = 0 → 0x800000 ≤ addr.toNat → s.config.oorPolicy = .fault →
      ∃ t, exec p.2.2 s = .next t ∧ t = { s with fault := some (.vramRange addr), reply := t.reply })

/-- R68, R96: a byte read through the 32-bit view is the byte the 64-bit view has at the translated address, and a byte
written through one view is what the other then reads. -/
def Obligations.TheTwoViewsAgree : Prop :=
  ∀ (s : State) (a : Word), a.toNat < 0x800000 →
    exec (.rdV32x1 a) s = exec (.rdV64x1 (map32 a)) s ∧
    ∀ (b : Byte) (t : State), s.accepts = true →
      (exec (.wrV32x1 a b) s = .next t →
        exec (.rdV64x1 (map32 a)) t = .next { t with reply := .value 1 (b.setWidth 64) }) ∧
      (exec (.wrV64x1 (map32 a) b) s = .next t →
        exec (.rdV32x1 a) t = .next { t with reply := .value 1 (b.setWidth 64) })

/-! ### The tick -/

/-- R101, R146: a tick with no timer armed, or at another time than its deadline, has no step (log 3). -/
def Obligations.TickHappensOnlyAtItsDeadline : Prop :=
  ∀ s : State, s.timer ≠ some s.now → exec .tick s = .next { s with reply := .noStep }

/-- R102 to R106: every tick goes to the next line; with mode 1 or 3 it stops there with `Fatal(HBLANK_MODE)` and no
event; else, whatever it does next, it raises that line's interrupts first and in their order, and takes the vsync flag
of that line. -/
def Obligations.EveryTickAdvancesTheLineThenStopsOrRaisesItsInterrupts : Prop :=
  ∀ s : State, s.accepts = true → s.timer = some s.now →
    ∃ t, exec .tick s = .next t ∧ t.currentLine = (s.currentLine + 1) % (s.get .vcount + 1) ∧
      (s.get .hblankIntMode ∈ ([1, 3] : List Nat) →
        t.fault = some (.hblankMode (s.get .hblankIntMode)) ∧ t.trace = s.trace ∧ t.vsync = s.vsync) ∧
      (s.get .hblankIntMode ∈ ([0, 2] : List Nat) →
        (t.vsync = true ↔ if s.get .vbstart < s.get .vbend
          then s.get .vbstart ≤ t.currentLine ∧ t.currentLine < s.get .vbend
          else s.get .vbstart ≤ t.currentLine ∨ t.currentLine < s.get .vbend) ∧
        ∃ rest, t.trace = s.trace ++
          (if s.get .hblankIntMode = 2 ∨ (s.get .hblankIntMode = 0 ∧ t.currentLine = s.get .lineCompVal)
            then [.raise s.config.interrupts.hblank] else []) ++
          (if t.currentLine = s.get .vblankInLineNumber then [.raise s.config.interrupts.vblankIn] else []) ++
          (if t.currentLine = s.get .vblankOutLineNumber then [.raise s.config.interrupts.vblankOut] else []) ++ rest ∧
          ∀ e ∈ rest, ∀ q, e ≠ .raise q) ∧
      s.get .hblankIntMode < 4

/-- R102 to R106, R110, R111: a tick without an edge of the vsync flag moves to the next line, raises that line's
interrupts, mirrors the timing state into `SPG_STATUS` and arms the timer one latched period on; nothing else
changes. -/
def Obligations.TickWithoutEdge : Prop :=
  ∀ s : State, s.accepts = true → s.timer = some s.now → s.get .hblankIntMode ∈ ([0, 2] : List Nat) →
    (s.vsync = true ↔ s.vsyncAt s.nextLine) →
    ∃ t, exec .tick s = .next t ∧
      t = { s with
        currentLine := s.nextLine, regs := t.regs, timer := some (s.now + s.linePeriodNs),
        trace := s.trace ++ s.lineEvents s.nextLine ++ [.timerArm (s.now + s.linePeriodNs)], reply := t.reply } ∧
      ∀ o, t.reg o = if o = s.off .spgStatus then s.mirror t (s.reg o) else s.reg o

/-- R107, R109: on the falling edge the tick also clears the vsync flag and notifies of vblank-out. -/
def Obligations.TickOnTheFallingEdge : Prop :=
  ∀ s : State, s.accepts = true → s.timer = some s.now → s.get .hblankIntMode ∈ ([0, 2] : List Nat) →
    s.vsync = true → ¬ s.vsyncAt s.nextLine →
    ∃ t, exec .tick s = .next t ∧
      t = { s with
        currentLine := s.nextLine, vsync := false, regs := t.regs, timer := some (s.now + s.linePeriodNs),
        trace := s.trace ++ s.lineEvents s.nextLine ++ [.vblankOut, .timerArm (s.now + s.linePeriodNs)],
        reply := t.reply } ∧
      ∀ o, t.reg o = if o = s.off .spgStatus then s.mirror t (s.reg o) else s.reg o

/-- R108, R117: on the rising edge the vblank-in event counts, toggles the field (or forces it to 0) and notifies; when
start-render was triggered this frame, or the region at `FB_R_SOF1` is clean, or `fb_enable` is 0, it pushes no frame,
and the Frame-Presented Flag is clear afterwards. What a notification says of a `blank_video` that a FIELDMAP widens is
the model's deduction (log 27). -/
def Obligations.TickOnTheRisingEdgeWithoutExtraction : Prop :=
  ∀ s : State, s.accepts = true → s.timer = some s.now → s.get .hblankIntMode ∈ ([0, 2] : List Nat) →
    s.vsync = false → s.vsyncAt s.nextLine →
    (s.gotStartrender = true ∨ s.dirty = .ok false ∨ (s.dirty = .ok true ∧ s.get .fbEnable = 0)) →
    ∃ t, exec .tick s = .next t ∧
      t = { s with
        currentLine := s.nextLine, vsync := true, gotStartrender := false, vblankCount := s.vblankCount + 1,
        field := if s.get .interlace = 1 then !s.field else false,
        regs := t.regs, timer := some (s.now + s.linePeriodNs),
        trace := s.trace ++ s.lineEvents s.nextLine ++ [.counterAdd s.config.vblankCounter 1,
          .vblankIn (s.get .blankVideo == 1), .timerArm (s.now + s.linePeriodNs)],
        reply := t.reply } ∧
      ∀ o, t.reg o = if o = s.off .spgStatus then s.mirror t (s.reg o) else s.reg o

/-- R108, R117, R121, R126: on the rising edge of a frame without start-render, with the region written and reading
enabled (`fb_enable` not 0, whatever its width under a FIELDMAP), exactly one frame is kept and pushed, between the counter
and the notification. -/
def Obligations.TickOnTheRisingEdgePushesTheFrame : Prop :=
  ∀ (s : State) (fr : Frame), s.accepts = true → s.timer = some s.now →
    s.get .hblankIntMode ∈ ([0, 2] : List Nat) → s.vsync = false → s.vsyncAt s.nextLine →
    s.gotStartrender = false → s.dirty = .ok true → s.get .fbEnable ≠ 0 → s.readFrame = .ok fr →
    ∃ t, exec .tick s = .next t ∧
      t = { s with
        currentLine := s.nextLine, vsync := true, vblankCount := s.vblankCount + 1,
        field := if s.get .interlace = 1 then !s.field else false, fbOut := some fr,
        regs := t.regs, timer := some (s.now + s.linePeriodNs),
        trace := s.trace ++ s.lineEvents s.nextLine ++ [.counterAdd s.config.vblankCounter 1, .pushFrame fr,
          .vblankIn (s.get .blankVideo == 1), .timerArm (s.now + s.linePeriodNs)],
        reply := t.reply } ∧
      ∀ o, t.reg o = if o = s.off .spgStatus then s.mirror t (s.reg o) else s.reg o

/-- R132: mode 1 or 3 stops the tick after the line advance and before any interrupt; the timer stays consumed, nothing
else changes. -/
def Obligations.BadHblankModeStopsTheTick : Prop :=
  ∀ s : State, s.accepts = true → s.timer = some s.now → s.get .hblankIntMode ∈ ([1, 3] : List Nat) →
    ∃ t, exec .tick s = .next t ∧ t = { s with
      currentLine := s.nextLine, timer := none, fault := some (.hblankMode (s.get .hblankIntMode)), reply := t.reply }

/-- R134, R130: a fault of the dirty test, or of the extraction that a dirty region with `fb_enable` not 0 brings (R117),
stops the tick with its interrupts raised, the counter incremented and the vsync flag set, before the field, the
notification, the mirror and the timer. -/
def Obligations.ExtractionFaultStopsTheTick : Prop :=
  ∀ (s : State) (f : BlockFault), s.accepts = true → s.timer = some s.now →
    s.get .hblankIntMode ∈ ([0, 2] : List Nat) → s.vsync = false → s.vsyncAt s.nextLine → s.gotStartrender = false →
    (s.dirty = .error f ∨ (s.dirty = .ok true ∧ s.get .fbEnable ≠ 0 ∧ s.readFrame = .error f)) →
    ∃ t, exec .tick s = .next t ∧ t = { s with
      currentLine := s.nextLine, vsync := true, vblankCount := s.vblankCount + 1, timer := none, fault := some f,
      trace := s.trace ++ s.lineEvents s.nextLine ++ [.counterAdd s.config.vblankCounter 1], reply := t.reply }

/-- R110: the mirror writes the line's low ten bits, the field and the vsync flag, and keeps every other bit: in the default
map (log 10), and under every FIELDMAP in which the three fields share no bit. -/
def Obligations.StatusMirrorWritesThreeFields : Prop :=
  (∀ (line : Nat) (field vsync : Bool) (w : Word),
    fieldOf ⟨9, 0⟩ (mirrorWord defaultMap line field vsync w) = line % 1024 ∧
    (mirrorWord defaultMap line field vsync w).getLsbD 10 = field ∧
    (mirrorWord defaultMap line field vsync w).getLsbD 13 = vsync ∧
    ∀ i < 32, 11 ≤ i → i ≠ 13 → (mirrorWord defaultMap line field vsync w).getLsbD i = w.getLsbD i) ∧
  ∀ (m : RegisterMap) (line : Nat) (field vsync : Bool) (w : Word),
    let a := m.bits .scanline
    let b := m.bits .fieldnum
    let c := m.bits .statusVsync
    (∀ i < 32, (i < a.lo ∨ a.hi < i) → (i < b.lo ∨ b.hi < i) → (i < c.lo ∨ c.hi < i) →
      (mirrorWord m line field vsync w).getLsbD i = w.getLsbD i) ∧
    ((a.hi < b.lo ∨ b.hi < a.lo) → (a.hi < c.lo ∨ c.hi < a.lo) → (b.hi < c.lo ∨ c.hi < b.lo) →
      fieldOf a (mirrorWord m line field vsync w) = line % 1024 % 2 ^ (a.hi - a.lo + 1) ∧
      fieldOf b (mirrorWord m line field vsync w) = field.toNat ∧
      fieldOf c (mirrorWord m line field vsync w) = vsync.toNat)

/-- R113 (1): with nobody else moving and no fault, `k` ticks advance the line by `k` modulo `vcount + 1`, and the
registers other than `SPG_STATUS` stay as they are; after `vcount + 1` ticks the line is back. -/
def Obligations.LineReturnsAfterAFullCycle : Prop :=
  ∀ (k : Nat) (s t : State), s.inbox = [] → s.currentLine ≤ s.get .vcount →
    Host.Core.run Sys2Proof.core k s = .next t → t.fault = none →
    t.currentLine = (s.currentLine + k) % (s.get .vcount + 1) ∧
    (∀ o, o ≠ s.off .spgStatus → t.reg o = s.reg o) ∧
    (k = s.get .vcount + 1 → t.currentLine = s.currentLine)

/-- R113 (2): with nobody else moving and no fault, over a full cycle of lines in which vsync takes both values exactly one
vblank-in event and exactly one vblank-out event fire, if the vsync flag is that of its line to begin with. -/
def Obligations.OneVblankInAndOneOutPerCycle : Prop :=
  ∀ s t : State, s.inbox = [] → s.currentLine ≤ s.get .vcount → (s.vsync = true ↔ s.vsyncAt s.currentLine) →
    (∃ a ≤ s.get .vcount, s.vsyncAt a) → (∃ b ≤ s.get .vcount, ¬ s.vsyncAt b) →
    Host.Core.run Sys2Proof.core (s.get .vcount + 1) s = .next t → t.fault = none →
    (t.trace.drop s.trace.length).countP Event.isVblankIn = 1 ∧
    (t.trace.drop s.trace.length).countP Event.isVblankOut = 1

/-! ### Extraction -/

/-- R122 to R125: the three bytes of a pixel of each depth, from the bytes of VRAM that its linear address and the next
ones name (R58). -/
def Obligations.PixelConversionPerDepth : Prop :=
  ∀ (s : State) (a : Word),
    let b := fun i : Nat => s.vramByte (vramIndex .v32 (a + BitVec.ofNat 32 i))
    ((∀ i < 2, addrAllowed s.config (a + BitVec.ofNat 32 i) = true) →
      (let v : BitVec 16 := b 1 ++ b 0
       s.convertPixel 0 a = .ok [v.extractLsb' 10 5 ++ 0#3, v.extractLsb' 5 5 ++ 0#3, v.extractLsb' 0 5 ++ 0#3] ∧
       s.convertPixel 1 a = .ok [v.extractLsb' 11 5 ++ 0#3, v.extractLsb' 5 6 ++ 0#2, v.extractLsb' 0 5 ++ 0#3])) ∧
    ((∀ i < 3, addrAllowed s.config (a + BitVec.ofNat 32 i) = true) → s.convertPixel 2 a = .ok [b 2, b 1, b 0]) ∧
    ((∀ i < 4, addrAllowed s.config (a + BitVec.ofNat 32 i) = true) → s.convertPixel 3 a = .ok [b 2, b 1, b 0])

/-- The fourth byte of a 32-bit pixel need not be accessible: the model's deduction (log 22) from R125, which says that it is
not needed. -/
def Obligations.FourthByteOfA32BitPixelIsNotNeeded : Prop :=
  ∀ (s : State) (a : Word),
    let b := fun i : Nat => s.vramByte (vramIndex .v32 (a + BitVec.ofNat 32 i))
    (∀ i < 3, addrAllowed s.config (a + BitVec.ofNat 32 i) = true) → s.convertPixel 3 a = .ok [b 2, b 1, b 0]

/-- R119 to R121, R43: an extracted frame has the size registers' dimensions and three bytes a pixel, and pixel `x` of row
`y` is converted from its field's address, advanced by the stride once per row of that field. -/
def Obligations.ExtractedFrameHoldsEveryPixel : Prop :=
  ∀ (s : State) (fr : Frame), s.readFrame = .ok fr →
    let bpp := ([2, 2, 3, 4][s.get .fbDepth]?).getD 0
    let fields := if s.get .interlace = 1 then 2 else 1
    let stride : Word := BitVec.ofNat 32 (fr.width * bpp) + (BitVec.ofNat 32 (s.get .fbModulus) - 1) * 4
    fr.width = (s.get .fbXSize + 1) * 4 / bpp ∧ fr.height = (s.get .fbYSize + 1) * fields ∧
    fr.bytes.length = 3 * fr.width * fr.height ∧
    ∀ y < fr.height, ∀ x < fr.width,
      s.convertPixel (s.get .fbDepth)
        ((if y % fields = 0 then s.word .fbRSof1 else s.word .fbRSof2) + BitVec.ofNat 32 (y / fields) * stride +
          BitVec.ofNat 32 (x * bpp)) =
        .ok ((fr.bytes.drop (3 * (y * fr.width + x))).take 3)

/-- R119, R121, R131, R133, R134: with one of the four depth codes, which are all that the default two-bit field can hold,
extraction succeeds whenever every byte it reads may be accessed, and else stops with `VRAM_RANGE` at the first byte, in
row, pixel and byte order (log 20), that may not. That an inaccessible fourth byte of a 32-bit pixel does not stop it is
the model's deduction (log 22) from R125, which says that this byte is not needed. Under a FIELDMAP that widens the field
any other code is `Fatal(DEPTH)`. -/
def Obligations.FrameReadSucceedsInRange : Prop :=
  ∀ s : State,
    let depth := s.get .fbDepth
    let bpp := ([2, 2, 3, 4][depth]?).getD 0
    let width := (s.get .fbXSize + 1) * 4 / bpp
    let fields := if s.get .interlace = 1 then 2 else 1
    let stride : Word := BitVec.ofNat 32 (width * bpp) + (BitVec.ofNat 32 (s.get .fbModulus) - 1) * 4
    let height := (s.get .fbYSize + 1) * fields
    let read := if depth ≤ 1 then 2 else 3
    let byteAddr := fun y x i : Nat => (if y % fields = 0 then s.word .fbRSof1 else s.word .fbRSof2) +
      BitVec.ofNat 32 (y / fields) * stride + BitVec.ofNat 32 (x * bpp) + BitVec.ofNat 32 i
    (s.config.regMap = defaultMap → depth < 4) ∧ (4 ≤ depth → s.readFrame = .error (.depth depth)) ∧
    (depth < 4 → (∀ y < height, ∀ x < width, ∀ i < read, addrAllowed s.config (byteAddr y x i) = true) →
      ∃ fr, s.readFrame = .ok fr) ∧
    (depth < 4 → ∀ y < height, ∀ x < width, ∀ i < read, addrAllowed s.config (byteAddr y x i) = false →
      (∀ y' x' i' : Nat, x' < width → i' < read → (y' < y ∨ (y' = y ∧ (x' < x ∨ (x' = x ∧ i' < i)))) →
        addrAllowed s.config (byteAddr y' x' i') = true) →
      s.readFrame = .error (.vramRange (byteAddr y x i)))

/-- R116: the dirty test is clean exactly when the word at `FB_R_SOF1` is the sentinel, dirty exactly when it is not, and
any one byte of a clean word changed makes it dirty; R57, R131, R134: it stops with `VRAM_RANGE` at the first of its four
bytes, in rising order (log 20), that may not be accessed. -/
def Obligations.DirtyTestComparesTheWordAtTheReadSource : Prop :=
  ∀ s : State,
    let byteAddr := fun i : Nat => s.word .fbRSof1 + BitVec.ofNat 32 i
    ((∀ i < 4, addrAllowed s.config (byteAddr i) = true) →
      (s.dirty = .ok false ↔
        ∀ i < 4, s.vramByte (vramIndex .v32 (byteAddr i)) = s.config.fbCookie.extractLsb' (8 * i) 8) ∧
      (s.dirty = .ok true ↔
        ∃ i < 4, s.vramByte (vramIndex .v32 (byteAddr i)) ≠ s.config.fbCookie.extractLsb' (8 * i) 8) ∧
      (s.dirty = .ok false → ∀ i < 4, ∀ b : Byte, b ≠ s.config.fbCookie.extractLsb' (8 * i) 8 →
        (s.setVramByte (vramIndex .v32 (byteAddr i)) b).dirty = .ok true)) ∧
    ∀ i < 4, addrAllowed s.config (byteAddr i) = false → (∀ j < i, addrAllowed s.config (byteAddr j) = true) →
      s.dirty = .error (.vramRange (byteAddr i))

/-! ### Video size, reset, teardown -/

/-- R127: the size query's answer (in `reply`, log 3) under each law, for the four depth codes; it changes nothing, and only
`div_shl10` with factor 0 faults, and, under a FIELDMAP that widens the depth field, any other code. -/
def Obligations.VideoSizeQuery : Prop :=
  ∀ s : State, s.accepts = true →
    let bpp := ([2, 2, 3, 4][s.get .fbDepth]?).getD 0
    let w := (s.get .fbXSize + 1) * 4 / bpp * (if s.get .hscale = 1 then 2 else 1)
    let h := (s.get .fbYSize + 1) * (if s.get .interlace = 1 then 2 else 1)
    let halved := fun n : Nat => if s.get .scalerInterlace = 1 then n / 2 else n
    (s.get .fbDepth < 4 →
      (s.config.vscaleLaw = .mulShr10 →
        exec .vsize s = .next { s with reply := .size w (halved (h * s.get .vscalefactor / 1024)) }) ∧
      (s.config.vscaleLaw = .divShl10 → s.get .vscalefactor ≠ 0 →
        exec .vsize s = .next { s with reply := .size w (halved (h * 1024 / s.get .vscalefactor)) }) ∧
      (s.config.vscaleLaw = .divShl10 → s.get .vscalefactor = 0 →
        ∃ t, exec .vsize s = .next t ∧ t = { s with fault := some .vscaleZero, reply := t.reply })) ∧
    (4 ≤ s.get .fbDepth →
      ∃ t, exec .vsize s = .next t ∧ t = { s with fault := some (.depth (s.get .fbDepth)), reply := t.reply })

/-- R148 to R151: `RESET`, accepted in every state, leaves every piece of the block's state at its reset value, a fresh
trace of the cancelled and the newly armed timer, and touches neither VRAM nor virtual time. -/
def Obligations.ResetLeavesEveryResetValue : Prop :=
  ∀ s : State, ∃ t, exec .reset s = .next t ∧
    (∀ o < s.config.regMap.numRegs, t.reg o = regResetWord s.config o) ∧
    t.linePeriodNs = 1000000000 /
      (s.config.pixelClockBaseHz * (if t.get .vclkDiv = 1 then 2 else 1) / (t.get .hcount + 1) *
        (if t.get .interlace = 1 then 2 else 1)) ∧
    t = { s with
      regs := t.regs, currentLine := 0, field := false, vsync := false, linePeriodNs := t.linePeriodNs,
      timer := some (s.now + t.linePeriodNs), gotStartrender := false, vblankCount := 0, fbOut := none, fault := none,
      live := true,
      trace := (if s.timer = none then [] else [.timerCancel]) ++ [.timerArm (s.now + t.linePeriodNs)],
      reply := t.reply }

/-- R17, R150, R151: under the default parameters (log 9, log 21) a `RESET` at time 0 of a block with no timer outstanding leaves the
reset words of R17 and a line period of 63_556 ns: the model's reset state, but for VRAM and the inbox. -/
def Obligations.DefaultResetIsTheResetState : Prop :=
  ∀ s : State, s.config = defaultConfig → s.now = 0 → s.timer = none →
    ∃ t, exec .reset s = .next t ∧ t = { State.reset with vram := s.vram, inbox := s.inbox, reply := t.reply }

/-- R112: `TEARDOWN` of a live block, faulted or not, cancels an outstanding timer and clears `live`. -/
def Obligations.TeardownCancelsTheTimer : Prop :=
  ∀ s : State, s.live = true →
    ∃ t, exec .teardown s = .next t ∧ t = { s with
      timer := none, live := false, trace := s.trace ++ (if s.timer = none then [] else [.timerCancel]),
      reply := t.reply }

/-! ### Rules of the whole block -/

/-- R12: register storage changes only by a storing write, at that write's own offset, by the mirror of a tick, in its
three fields of `SPG_STATUS`, and by reset. -/
def Obligations.OnlyStoringWritesTheMirrorAndResetChangeRegisters : Prop :=
  ∀ (i : Instr) (s t : State) (o : Nat), exec i s = .next t → t.reg o ≠ s.reg o →
    (match i with
      | .wrReg addr _ _ => o = addr.toNat / 4
      | .wrRegTaYuvTexBase _ _ _ => o = s.off .taYuvTexBase
      | .wrRegSpgLoad _ _ _ => o = s.off .spgLoad
      | .wrRegFbRCtrl _ _ _ => o = s.off .fbRCtrl
      | .tick => o = s.off .spgStatus ∧ t.reg o = s.mirror t (s.reg o)
      | .reset => True
      | _ => False)

/-- R38, R41, R42, R43, R50: the timing state, the counter and the output buffer change only by a tick or reset; the
Frame-Presented Flag is set only by a start-render write and cleared only by a tick or reset. -/
def Obligations.TimingStateAndFlagsHaveTheirWritersOnly : Prop :=
  ∀ (i : Instr) (s t : State), exec i s = .next t →
    (i ≠ .tick → i ≠ .reset → t.currentLine = s.currentLine ∧ t.field = s.field ∧ t.vsync = s.vsync ∧
      t.vblankCount = s.vblankCount ∧ t.fbOut = s.fbOut) ∧
    (s.gotStartrender = false → t.gotStartrender = true →
      ∃ addr data mask, i = .wrRegStartrender addr data mask ∧ data ≠ 0) ∧
    (s.gotStartrender = true → t.gotStartrender = false → i = .tick ∨ i = .reset)

/-- R63, R148: no operation of the block but a guest VRAM write and the marking of a start-render write changes VRAM: no
read, no tick with its extraction, and no reset changes a byte. A step changes a byte by such an operation or by the
memory subsystem's own write to it (R44, R147, log 19). -/
def Obligations.NoOperationButGuestWritesAndMarkingChangesVram : Prop :=
  (∀ (i : Instr) (s t : State) (k : Nat), exec i s = .next t → t.vramByte k ≠ s.vramByte k →
    (∃ addr data mask, i = .wrRegStartrender addr data mask ∧ data ≠ 0) ∨
    (∃ addr data, i ∈ (writeRows addr data).map fun p => p.2.2)) ∧
  ∀ (s t : State) (k : Nat), step s = .next t → t.vramByte k ≠ s.vramByte k →
    ∃ r rest, s.inbox = r :: rest ∧
      ((∃ b, r.move = .memoryWrite k b) ∨ ∃ x i, r.move = .bus x ∧ decode s.config.regMap x = .ok i ∧
        ((∃ addr data mask, i = .wrRegStartrender addr data mask ∧ data ≠ 0) ∨
          ∃ addr data, i ∈ (writeRows addr data).map fun p => p.2.2))

/-- R45, R136: a fault is cleared, and a torn-down block revived, by `RESET` alone. -/
def Obligations.OnlyResetClearsAFault : Prop :=
  ∀ (i : Instr) (s t : State), exec i s = .next t → i ≠ .reset →
    (s.fault ≠ none → t.fault = s.fault) ∧ (s.live = false → t.live = false)

/-- R47: the trace is kept in the order made: every operation but `RESET` only adds to its end. -/
def Obligations.TraceOnlyGrowsUntilReset : Prop :=
  ∀ (i : Instr) (s t : State), exec i s = .next t → i ≠ .reset → ∃ added, t.trace = s.trace ++ added

/-- R154: a TEARDOWN of a block without a fault ends the run; a run to a horizon ends in no faulted state, at a time not after
the horizon, and whatever happens next happens after it; a faulted state is never an end. That a block torn down while
faulted has not ended its run is the model's choice (log 25). -/
def Obligations.RunEndsAtTeardownOrAtTheHorizon : Prop :=
  (∀ s t : State, s.live = true → s.fault = none → exec .teardown s = .next t → t.ended = true) ∧
  (∀ s : State, s.ended = true → s.fault = none ∧ s.live = false ∧ s.timer = none) ∧
  ∀ (T : Nat) (s t : State), EndsAtHorizon T s t →
    t.fault = none ∧ (s.now ≤ T → t.now ≤ T) ∧ ∀ u : State, step t = .next u → T < u.now

/-- The state after reset meets the invariant. -/
def Obligations.ResetStateMeetsTheInvariant : Prop := State.reset.Inv

/-- `RESET` establishes the invariant from any state of the block whatever, if VRAM is in canonical form. -/
def Obligations.ResetEstablishesTheInvariant : Prop :=
  ∀ s t : State, Memory.wf s.vram = true → exec .reset s = .next t → t.Inv

/-- Every step keeps the invariant: `ID` and the trigger registers at their reset words (R13, R90), the line within
its counter (R38), never more or less than one timer while the block takes steps (R40, R111), no armed deadline passed
(R146; of a faulted block as log 26 has it), no zero period (R161), whole frames (R43), memory and registers in canonical
form. -/
def Obligations.StepKeepsTheInvariant : Prop :=
  ∀ s t : State, s.Inv → step s = .next t → t.Inv
end

