-- ==== Sys2Proof/Laws/Cells.lean ====
section
/-! SUPPORT. Laws of the canonical cells: a read after a write, and that every operation keeps the canonical form. -/

namespace Sys2Proof.Machine

variable {α : Type}

@[simp] theorem cellsRead_nil (d : α) (a : Nat) : cellsRead d [] a = d := rfl

theorem cellsRead_cons (d : α) (k : Nat) (v : α) (t : List (Nat × α)) (a : Nat) :
    cellsRead d ((k, v) :: t) a = if k = a then v else cellsRead d t a := rfl

theorem cellsRead_erase (d : α) (l : List (Nat × α)) (a b : Nat) :
    cellsRead d (cellsErase a l) b = if a = b then d else cellsRead d l b := by
  induction l with
  | nil => simp [cellsErase]
  | cons e t ih =>
    obtain ⟨k, w⟩ := e
    by_cases hk : k = a <;> by_cases hb : a = b <;> simp_all [cellsErase, cellsRead_cons]

theorem cellsRead_insert (d : α) (l : List (Nat × α)) (a b : Nat) (v : α) (h : ∀ w, (a, w) ∉ l) :
    cellsRead d (cellsInsert a v l) b = if a = b then v else cellsRead d l b := by
  induction l with
  | nil => simp [cellsInsert, cellsRead_cons]
  | cons e t ih =>
    obtain ⟨k, w⟩ := e
    have hk : k ≠ a := fun hk => h w (by simp [hk])
    have ih' := ih fun w' hw => h w' (List.mem_cons_of_mem _ hw)
    by_cases hlt : a < k
    · simp [cellsInsert, hlt, cellsRead_cons]
    · simp only [cellsInsert, hlt, if_false, cellsRead_cons, ih']
      by_cases hb : k = b
      · have : a ≠ b := fun hab => hk (hb.trans hab.symm)
        simp [hb, this]
      · simp [hb]

theorem not_mem_cellsErase (l : List (Nat × α)) (a : Nat) (w : α) : (a, w) ∉ cellsErase a l := by
  induction l with
  | nil => simp [cellsErase]
  | cons e t ih =>
    obtain ⟨k, v⟩ := e
    by_cases hk : k = a
    · simpa [cellsErase, hk] using ih
    · simp only [cellsErase, hk, if_false, List.mem_cons, not_or]
      exact ⟨fun he => hk (by cases he; rfl), ih⟩

/-- A read after a write gives the value written at that key and the old value at every other. -/
theorem cellsRead_write [DecidableEq α] (d : α) (l : List (Nat × α)) (a b : Nat) (v : α) :
    cellsRead d (cellsWrite d l a v) b = if a = b then v else cellsRead d l b := by
  unfold cellsWrite
  split
  · next h => subst h; rw [cellsRead_erase]
  · rw [cellsRead_insert _ _ _ _ _ (not_mem_cellsErase l a), cellsRead_erase]
    by_cases hb : a = b <;> simp [hb]

/-! ### The canonical form -/

/-- The canonical form as a proposition: keys rising and in range, no entry equal to the default. -/
theorem cellsWf_iff [DecidableEq α] (d : α) (n : Nat) (l : List (Nat × α)) :
    cellsWf d n l = true ↔
      (l.Pairwise fun p q => p.1 < q.1) ∧ ∀ p ∈ l, p.1 < n ∧ p.2 ≠ d := by
  induction l with
  | nil => simp [cellsWf]
  | cons e t ih =>
    obtain ⟨k, v⟩ := e
    cases t with
    | nil => simp [cellsWf]
    | cons e' t' =>
      obtain ⟨k', v'⟩ := e'
      simp only [cellsWf, Bool.and_eq_true, decide_eq_true_eq, ih, List.pairwise_cons, List.mem_cons,
        forall_eq_or_imp]
      constructor
      · rintro ⟨⟨hk, hv⟩, ⟨hk', ht⟩, ⟨hn, hv'⟩, hmem⟩
        exact ⟨⟨⟨hk, fun p hp => lt_trans hk (hk' p hp)⟩, hk', ht⟩, ⟨by omega, hv⟩, ⟨hn, hv'⟩, hmem⟩
      · rintro ⟨⟨⟨hk, -⟩, hk', ht⟩, ⟨-, hv⟩, h', hmem⟩
        exact ⟨⟨hk, hv⟩, ⟨hk', ht⟩, h', hmem⟩

theorem mem_cellsErase {l : List (Nat × α)} {a : Nat} {p : Nat × α} (h : p ∈ cellsErase a l) : p ∈ l := by
  induction l with
  | nil => simp [cellsErase] at h
  | cons e t ih =>
    obtain ⟨k, v⟩ := e
    by_cases hk : k = a
    · simp only [cellsErase, hk, if_true] at h
      exact List.mem_cons_of_mem _ (ih h)
    · simp only [cellsErase, hk, if_false, List.mem_cons] at h
      rcases h with rfl | h
      · simp
      · exact List.mem_cons_of_mem _ (ih h)

theorem mem_cellsInsert {l : List (Nat × α)} {a : Nat} {v : α} {p : Nat × α} (h : p ∈ cellsInsert a v l) :
    p = (a, v) ∨ p ∈ l := by
  induction l with
  | nil => simpa [cellsInsert] using h
  | cons e t ih =>
    obtain ⟨k, w⟩ := e
    simp only [cellsInsert] at h
    split at h
    · simpa using h
    · rcases List.mem_cons.1 h with rfl | h
      · simp
      · rcases ih h with h | h <;> simp [h]

theorem cellsErase_sorted {l : List (Nat × α)} (a : Nat) (h : l.Pairwise fun p q => p.1 < q.1) :
    (cellsErase a l).Pairwise fun p q => p.1 < q.1 := by
  induction l with
  | nil => simp [cellsErase]
  | cons e t ih =>
    obtain ⟨k, v⟩ := e
    rw [List.pairwise_cons] at h
    by_cases hk : k = a
    · simpa [cellsErase, hk] using ih h.2
    · simp only [cellsErase, hk, if_false, List.pairwise_cons]
      exact ⟨fun p hp => h.1 p (mem_cellsErase hp), ih h.2⟩

theorem cellsInsert_sorted {l : List (Nat × α)} {a : Nat} (v : α) (h : l.Pairwise fun p q => p.1 < q.1)
    (ha : ∀ w, (a, w) ∉ l) : (cellsInsert a v l).Pairwise fun p q => p.1 < q.1 := by
  induction l with
  | nil => simp [cellsInsert]
  | cons e t ih =>
    obtain ⟨k, w⟩ := e
    have hk : k ≠ a := fun hk => ha w (by simp [hk])
    have h' := List.pairwise_cons.1 h
    simp only [cellsInsert]
    split
    · next hlt =>
      refine List.pairwise_cons.2 ⟨fun p hp => ?_, h⟩
      rcases List.mem_cons.1 hp with rfl | hp
      · exact hlt
      · exact lt_trans hlt (h'.1 p hp)
    · next hlt =>
      refine List.pairwise_cons.2 ⟨fun p hp => ?_, ih h'.2 fun w' hw => ha w' (List.mem_cons_of_mem _ hw)⟩
      rcases mem_cellsInsert hp with rfl | hp
      · show k < a
        omega
      · exact h'.1 p hp

/-- A write at a key in range keeps the canonical form. -/
theorem cellsWrite_wf [DecidableEq α] (d : α) {n : Nat} {l : List (Nat × α)} {a : Nat} (v : α)
    (h : cellsWf d n l = true) (ha : a < n) : cellsWf d n (cellsWrite d l a v) = true := by
  rw [cellsWf_iff] at h ⊢
  unfold cellsWrite
  split
  · exact ⟨cellsErase_sorted a h.1, fun p hp => h.2 p (mem_cellsErase hp)⟩
  · next hv =>
    refine ⟨cellsInsert_sorted v (cellsErase_sorted a h.1) (not_mem_cellsErase l a), fun p hp => ?_⟩
    rcases mem_cellsInsert hp with rfl | hp
    · exact ⟨ha, hv⟩
    · exact h.2 p (mem_cellsErase hp)

/-- A key outside the range of a canonical list holds the default. -/
theorem cellsRead_of_wf [DecidableEq α] (d : α) {n : Nat} {l : List (Nat × α)} (h : cellsWf d n l = true) {a : Nat}
    (ha : n ≤ a) : cellsRead d l a = d := by
  rw [cellsWf_iff] at h
  replace h := h.2
  induction l with
  | nil => rfl
  | cons e t ih =>
    obtain ⟨k, v⟩ := e
    have hk : k ≠ a := by
      have := (h (k, v) (by simp)).1
      simp only at this
      omega
    simpa [cellsRead_cons, hk] using ih fun p hp => h p (List.mem_cons_of_mem _ hp)

/-- Two canonical lists that read alike are one list: equal memories are equal data. -/
theorem cells_ext [DecidableEq α] (d : α) {n : Nat} {l m : List (Nat × α)} (hl : cellsWf d n l = true)
    (hm : cellsWf d n m = true) (h : ∀ a, cellsRead d l a = cellsRead d m a) : l = m := by
  rw [cellsWf_iff] at hl hm
  have read_lt : ∀ {t : List (Nat × α)} {a : Nat}, (∀ p ∈ t, a < p.1) → cellsRead d t a = d := by
    intro t a ht
    induction t with
    | nil => rfl
    | cons e t ih =>
      obtain ⟨k, v⟩ := e
      have : k ≠ a := by have := ht (k, v) (by simp); simp only at this; omega
      simpa [cellsRead_cons, this] using ih fun p hp => ht p (List.mem_cons_of_mem _ hp)
  induction l generalizing m with
  | nil =>
    cases m with
    | nil => rfl
    | cons e t =>
      obtain ⟨k, v⟩ := e
      have := h k
      simp [cellsRead_cons] at this
      exact absurd this.symm (hm.2 (k, v) (by simp)).2
  | cons e t ih =>
    obtain ⟨k, v⟩ := e
    have hl' := List.pairwise_cons.1 hl.1
    cases m with
    | nil =>
      have := h k
      simp [cellsRead_cons] at this
      exact absurd this (hl.2 (k, v) (by simp)).2
    | cons e' t' =>
      obtain ⟨k', v'⟩ := e'
      have hm' := List.pairwise_cons.1 hm.1
      have hkk : k = k' := by
        rcases Nat.lt_trichotomy k k' with hlt | heq | hgt
        · have h1 := h k
          rw [cellsRead_cons, if_pos rfl, read_lt] at h1
          · exact absurd h1 (hl.2 (k, v) (by simp)).2
          · intro p hp
            rcases List.mem_cons.1 hp with rfl | hp
            · exact hlt
            · exact lt_trans hlt (hm'.1 p hp)
        · exact heq
        · have h1 := h k'
          rw [cellsRead_cons (k := k'), if_pos rfl, read_lt] at h1
          · exact absurd h1.symm (hm.2 (k', v') (by simp)).2
          · intro p hp
            rcases List.mem_cons.1 hp with rfl | hp
            · exact hgt
            · exact lt_trans hgt (hl'.1 p hp)
      subst hkk
      have hv : v = v' := by have := h k; simpa [cellsRead_cons] using this
      subst hv
      rw [ih ⟨hl'.2, fun p hp => hl.2 p (List.mem_cons_of_mem _ hp)⟩
        ⟨hm'.2, fun p hp => hm.2 p (List.mem_cons_of_mem _ hp)⟩]
      intro a
      by_cases ha : k = a
      · subst ha
        rw [read_lt fun p hp => hl'.1 p hp, read_lt fun p hp => hm'.1 p hp]
      · have := h a
        simpa [cellsRead_cons, ha] using this

end Sys2Proof.Machine
end

