-- ==== Sys2Proof/Laws/State.lean ====
section
/-! SUPPORT. One lemma per field per update of the state: what each named update writes, and that it leaves every other
field alone; then the same for what is read through `reg`, `get`, `vramByte` and `accepts`. -/

namespace Sys2Proof.Machine

variable (s : State)

/-! ### emit -/

@[simp] theorem emit_config (e : Event) : (s.emit e).config = s.config := rfl
@[simp] theorem emit_off (e : Event) (n : RegName) : (s.emit e).off n = s.off n := rfl
@[simp] theorem emit_now (e : Event) : (s.emit e).now = s.now := rfl
@[simp] theorem emit_regs (e : Event) : (s.emit e).regs = s.regs := rfl
@[simp] theorem emit_vram (e : Event) : (s.emit e).vram = s.vram := rfl
@[simp] theorem emit_currentLine (e : Event) : (s.emit e).currentLine = s.currentLine := rfl
@[simp] theorem emit_field (e : Event) : (s.emit e).field = s.field := rfl
@[simp] theorem emit_vsync (e : Event) : (s.emit e).vsync = s.vsync := rfl
@[simp] theorem emit_linePeriodNs (e : Event) : (s.emit e).linePeriodNs = s.linePeriodNs := rfl
@[simp] theorem emit_timer (e : Event) : (s.emit e).timer = s.timer := rfl
@[simp] theorem emit_gotStartrender (e : Event) : (s.emit e).gotStartrender = s.gotStartrender := rfl
@[simp] theorem emit_vblankCount (e : Event) : (s.emit e).vblankCount = s.vblankCount := rfl
@[simp] theorem emit_fbOut (e : Event) : (s.emit e).fbOut = s.fbOut := rfl
@[simp] theorem emit_fault (e : Event) : (s.emit e).fault = s.fault := rfl
@[simp] theorem emit_live (e : Event) : (s.emit e).live = s.live := rfl
@[simp] theorem emit_trace (e : Event) : (s.emit e).trace = s.trace ++ [e] := rfl
@[simp] theorem emit_reply (e : Event) : (s.emit e).reply = s.reply := rfl
@[simp] theorem emit_inbox (e : Event) : (s.emit e).inbox = s.inbox := rfl
@[simp] theorem emit_reg (e : Event) (k : Nat) : (s.emit e).reg k = s.reg k := rfl
@[simp] theorem emit_get (e : Event) (f : FieldName) : (s.emit e).get f = s.get f := rfl
@[simp] theorem emit_flag (e : Event) (f : FieldName) : (s.emit e).flag f = s.flag f := rfl
@[simp] theorem emit_word (e : Event) (n : RegName) : (s.emit e).word n = s.word n := rfl
@[simp] theorem emit_vramByte (e : Event) (k : Nat) : (s.emit e).vramByte k = s.vramByte k := rfl
@[simp] theorem emit_accepts (e : Event) : (s.emit e).accepts = s.accepts := rfl

/-! ### answer -/

@[simp] theorem answer_config (r : Reply) : (s.answer r).config = s.config := rfl
@[simp] theorem answer_off (r : Reply) (n : RegName) : (s.answer r).off n = s.off n := rfl
@[simp] theorem answer_now (r : Reply) : (s.answer r).now = s.now := rfl
@[simp] theorem answer_regs (r : Reply) : (s.answer r).regs = s.regs := rfl
@[simp] theorem answer_vram (r : Reply) : (s.answer r).vram = s.vram := rfl
@[simp] theorem answer_currentLine (r : Reply) : (s.answer r).currentLine = s.currentLine := rfl
@[simp] theorem answer_field (r : Reply) : (s.answer r).field = s.field := rfl
@[simp] theorem answer_vsync (r : Reply) : (s.answer r).vsync = s.vsync := rfl
@[simp] theorem answer_linePeriodNs (r : Reply) : (s.answer r).linePeriodNs = s.linePeriodNs := rfl
@[simp] theorem answer_timer (r : Reply) : (s.answer r).timer = s.timer := rfl
@[simp] theorem answer_gotStartrender (r : Reply) : (s.answer r).gotStartrender = s.gotStartrender := rfl
@[simp] theorem answer_vblankCount (r : Reply) : (s.answer r).vblankCount = s.vblankCount := rfl
@[simp] theorem answer_fbOut (r : Reply) : (s.answer r).fbOut = s.fbOut := rfl
@[simp] theorem answer_fault (r : Reply) : (s.answer r).fault = s.fault := rfl
@[simp] theorem answer_live (r : Reply) : (s.answer r).live = s.live := rfl
@[simp] theorem answer_trace (r : Reply) : (s.answer r).trace = s.trace := rfl
@[simp] theorem answer_reply (r : Reply) : (s.answer r).reply = r := rfl
@[simp] theorem answer_inbox (r : Reply) : (s.answer r).inbox = s.inbox := rfl
@[simp] theorem answer_reg (r : Reply) (k : Nat) : (s.answer r).reg k = s.reg k := rfl
@[simp] theorem answer_get (r : Reply) (f : FieldName) : (s.answer r).get f = s.get f := rfl
@[simp] theorem answer_flag (r : Reply) (f : FieldName) : (s.answer r).flag f = s.flag f := rfl
@[simp] theorem answer_word (r : Reply) (n : RegName) : (s.answer r).word n = s.word n := rfl
@[simp] theorem answer_vramByte (r : Reply) (k : Nat) : (s.answer r).vramByte k = s.vramByte k := rfl
@[simp] theorem answer_accepts (r : Reply) : (s.answer r).accepts = s.accepts := rfl

/-! ### setReg -/

@[simp] theorem setReg_config (o : Nat) (w : Word) : (s.setReg o w).config = s.config := rfl
@[simp] theorem setReg_off (o : Nat) (w : Word) (n : RegName) : (s.setReg o w).off n = s.off n := rfl
@[simp] theorem setReg_now (o : Nat) (w : Word) : (s.setReg o w).now = s.now := rfl
@[simp] theorem setReg_regs (o : Nat) (w : Word) : (s.setReg o w).regs = cellsWrite 0 s.regs o w := rfl
@[simp] theorem setReg_vram (o : Nat) (w : Word) : (s.setReg o w).vram = s.vram := rfl
@[simp] theorem setReg_currentLine (o : Nat) (w : Word) : (s.setReg o w).currentLine = s.currentLine := rfl
@[simp] theorem setReg_field (o : Nat) (w : Word) : (s.setReg o w).field = s.field := rfl
@[simp] theorem setReg_vsync (o : Nat) (w : Word) : (s.setReg o w).vsync = s.vsync := rfl
@[simp] theorem setReg_linePeriodNs (o : Nat) (w : Word) : (s.setReg o w).linePeriodNs = s.linePeriodNs := rfl
@[simp] theorem setReg_timer (o : Nat) (w : Word) : (s.setReg o w).timer = s.timer := rfl
@[simp] theorem setReg_gotStartrender (o : Nat) (w : Word) : (s.setReg o w).gotStartrender = s.gotStartrender := rfl
@[simp] theorem setReg_vblankCount (o : Nat) (w : Word) : (s.setReg o w).vblankCount = s.vblankCount := rfl
@[simp] theorem setReg_fbOut (o : Nat) (w : Word) : (s.setReg o w).fbOut = s.fbOut := rfl
@[simp] theorem setReg_fault (o : Nat) (w : Word) : (s.setReg o w).fault = s.fault := rfl
@[simp] theorem setReg_live (o : Nat) (w : Word) : (s.setReg o w).live = s.live := rfl
@[simp] theorem setReg_trace (o : Nat) (w : Word) : (s.setReg o w).trace = s.trace := rfl
@[simp] theorem setReg_reply (o : Nat) (w : Word) : (s.setReg o w).reply = s.reply := rfl
@[simp] theorem setReg_inbox (o : Nat) (w : Word) : (s.setReg o w).inbox = s.inbox := rfl
@[simp] theorem setReg_vramByte (o : Nat) (w : Word) (k : Nat) : (s.setReg o w).vramByte k = s.vramByte k := rfl
@[simp] theorem setReg_accepts (o : Nat) (w : Word) : (s.setReg o w).accepts = s.accepts := rfl

/-! ### store -/

@[simp] theorem store_config (o : Nat) (d m : Word) : (s.store o d m).config = s.config := rfl
@[simp] theorem store_off (o : Nat) (d m : Word) (n : RegName) : (s.store o d m).off n = s.off n := rfl
@[simp] theorem store_now (o : Nat) (d m : Word) : (s.store o d m).now = s.now := rfl
@[simp] theorem store_regs (o : Nat) (d m : Word) : (s.store o d m).regs = cellsWrite 0 s.regs o (maskedWord s.config (s.reg o) d m) := rfl
@[simp] theorem store_vram (o : Nat) (d m : Word) : (s.store o d m).vram = s.vram := rfl
@[simp] theorem store_currentLine (o : Nat) (d m : Word) : (s.store o d m).currentLine = s.currentLine := rfl
@[simp] theorem store_field (o : Nat) (d m : Word) : (s.store o d m).field = s.field := rfl
@[simp] theorem store_vsync (o : Nat) (d m : Word) : (s.store o d m).vsync = s.vsync := rfl
@[simp] theorem store_linePeriodNs (o : Nat) (d m : Word) : (s.store o d m).linePeriodNs = s.linePeriodNs := rfl
@[simp] theorem store_timer (o : Nat) (d m : Word) : (s.store o d m).timer = s.timer := rfl
@[simp] theorem store_gotStartrender (o : Nat) (d m : Word) : (s.store o d m).gotStartrender = s.gotStartrender := rfl
@[simp] theorem store_vblankCount (o : Nat) (d m : Word) : (s.store o d m).vblankCount = s.vblankCount := rfl
@[simp] theorem store_fbOut (o : Nat) (d m : Word) : (s.store o d m).fbOut = s.fbOut := rfl
@[simp] theorem store_fault (o : Nat) (d m : Word) : (s.store o d m).fault = s.fault := rfl
@[simp] theorem store_live (o : Nat) (d m : Word) : (s.store o d m).live = s.live := rfl
@[simp] theorem store_trace (o : Nat) (d m : Word) : (s.store o d m).trace = s.trace := rfl
@[simp] theorem store_reply (o : Nat) (d m : Word) : (s.store o d m).reply = s.reply := rfl
@[simp] theorem store_inbox (o : Nat) (d m : Word) : (s.store o d m).inbox = s.inbox := rfl
@[simp] theorem store_vramByte (o : Nat) (d m : Word) (k : Nat) : (s.store o d m).vramByte k = s.vramByte k := rfl
@[simp] theorem store_accepts (o : Nat) (d m : Word) : (s.store o d m).accepts = s.accepts := rfl

/-! ### setVramByte -/

@[simp] theorem setVramByte_config (i : Nat) (b : Byte) : (s.setVramByte i b).config = s.config := rfl
@[simp] theorem setVramByte_off (i : Nat) (b : Byte) (n : RegName) : (s.setVramByte i b).off n = s.off n := rfl
@[simp] theorem setVramByte_now (i : Nat) (b : Byte) : (s.setVramByte i b).now = s.now := rfl
@[simp] theorem setVramByte_regs (i : Nat) (b : Byte) : (s.setVramByte i b).regs = s.regs := rfl
@[simp] theorem setVramByte_vram (i : Nat) (b : Byte) : (s.setVramByte i b).vram = cellsWrite unlistedByte s.vram i b := rfl
@[simp] theorem setVramByte_currentLine (i : Nat) (b : Byte) : (s.setVramByte i b).currentLine = s.currentLine := rfl
@[simp] theorem setVramByte_field (i : Nat) (b : Byte) : (s.setVramByte i b).field = s.field := rfl
@[simp] theorem setVramByte_vsync (i : Nat) (b : Byte) : (s.setVramByte i b).vsync = s.vsync := rfl
@[simp] theorem setVramByte_linePeriodNs (i : Nat) (b : Byte) : (s.setVramByte i b).linePeriodNs = s.linePeriodNs := rfl
@[simp] theorem setVramByte_timer (i : Nat) (b : Byte) : (s.setVramByte i b).timer = s.timer := rfl
@[simp] theorem setVramByte_gotStartrender (i : Nat) (b : Byte) : (s.setVramByte i b).gotStartrender = s.gotStartrender := rfl
@[simp] theorem setVramByte_vblankCount (i : Nat) (b : Byte) : (s.setVramByte i b).vblankCount = s.vblankCount := rfl
@[simp] theorem setVramByte_fbOut (i : Nat) (b : Byte) : (s.setVramByte i b).fbOut = s.fbOut := rfl
@[simp] theorem setVramByte_fault (i : Nat) (b : Byte) : (s.setVramByte i b).fault = s.fault := rfl
@[simp] theorem setVramByte_live (i : Nat) (b : Byte) : (s.setVramByte i b).live = s.live := rfl
@[simp] theorem setVramByte_trace (i : Nat) (b : Byte) : (s.setVramByte i b).trace = s.trace := rfl
@[simp] theorem setVramByte_reply (i : Nat) (b : Byte) : (s.setVramByte i b).reply = s.reply := rfl
@[simp] theorem setVramByte_inbox (i : Nat) (b : Byte) : (s.setVramByte i b).inbox = s.inbox := rfl
@[simp] theorem setVramByte_reg (i : Nat) (b : Byte) (k : Nat) : (s.setVramByte i b).reg k = s.reg k := rfl
@[simp] theorem setVramByte_get (i : Nat) (b : Byte) (f : FieldName) : (s.setVramByte i b).get f = s.get f := rfl
@[simp] theorem setVramByte_flag (i : Nat) (b : Byte) (f : FieldName) : (s.setVramByte i b).flag f = s.flag f := rfl
@[simp] theorem setVramByte_word (i : Nat) (b : Byte) (n : RegName) : (s.setVramByte i b).word n = s.word n := rfl
@[simp] theorem setVramByte_accepts (i : Nat) (b : Byte) : (s.setVramByte i b).accepts = s.accepts := rfl

/-! ### schedule -/

@[simp] theorem schedule_config (d : Nat) : (s.schedule d).config = s.config := rfl
@[simp] theorem schedule_off (d : Nat) (n : RegName) : (s.schedule d).off n = s.off n := rfl
@[simp] theorem schedule_now (d : Nat) : (s.schedule d).now = s.now := rfl
@[simp] theorem schedule_regs (d : Nat) : (s.schedule d).regs = s.regs := rfl
@[simp] theorem schedule_vram (d : Nat) : (s.schedule d).vram = s.vram := rfl
@[simp] theorem schedule_currentLine (d : Nat) : (s.schedule d).currentLine = s.currentLine := rfl
@[simp] theorem schedule_field (d : Nat) : (s.schedule d).field = s.field := rfl
@[simp] theorem schedule_vsync (d : Nat) : (s.schedule d).vsync = s.vsync := rfl
@[simp] theorem schedule_linePeriodNs (d : Nat) : (s.schedule d).linePeriodNs = s.linePeriodNs := rfl
@[simp] theorem schedule_timer (d : Nat) : (s.schedule d).timer = some (s.now + d) := rfl
@[simp] theorem schedule_gotStartrender (d : Nat) : (s.schedule d).gotStartrender = s.gotStartrender := rfl
@[simp] theorem schedule_vblankCount (d : Nat) : (s.schedule d).vblankCount = s.vblankCount := rfl
@[simp] theorem schedule_fbOut (d : Nat) : (s.schedule d).fbOut = s.fbOut := rfl
@[simp] theorem schedule_fault (d : Nat) : (s.schedule d).fault = s.fault := rfl
@[simp] theorem schedule_live (d : Nat) : (s.schedule d).live = s.live := rfl
@[simp] theorem schedule_trace (d : Nat) : (s.schedule d).trace = s.trace ++ [.timerArm (s.now + d)] := rfl
@[simp] theorem schedule_reply (d : Nat) : (s.schedule d).reply = s.reply := rfl
@[simp] theorem schedule_inbox (d : Nat) : (s.schedule d).inbox = s.inbox := rfl
@[simp] theorem schedule_reg (d : Nat) (k : Nat) : (s.schedule d).reg k = s.reg k := rfl
@[simp] theorem schedule_get (d : Nat) (f : FieldName) : (s.schedule d).get f = s.get f := rfl
@[simp] theorem schedule_flag (d : Nat) (f : FieldName) : (s.schedule d).flag f = s.flag f := rfl
@[simp] theorem schedule_word (d : Nat) (n : RegName) : (s.schedule d).word n = s.word n := rfl
@[simp] theorem schedule_vramByte (d : Nat) (k : Nat) : (s.schedule d).vramByte k = s.vramByte k := rfl
@[simp] theorem schedule_accepts (d : Nat) : (s.schedule d).accepts = s.accepts := rfl

/-! ### latchPeriod -/

@[simp] theorem latchPeriod_config : (s.latchPeriod).config = s.config := rfl
@[simp] theorem latchPeriod_off (n : RegName) : (s.latchPeriod).off n = s.off n := rfl
@[simp] theorem latchPeriod_now : (s.latchPeriod).now = s.now := rfl
@[simp] theorem latchPeriod_regs : (s.latchPeriod).regs = s.regs := rfl
@[simp] theorem latchPeriod_vram : (s.latchPeriod).vram = s.vram := rfl
@[simp] theorem latchPeriod_currentLine : (s.latchPeriod).currentLine = s.currentLine := rfl
@[simp] theorem latchPeriod_field : (s.latchPeriod).field = s.field := rfl
@[simp] theorem latchPeriod_vsync : (s.latchPeriod).vsync = s.vsync := rfl
@[simp] theorem latchPeriod_linePeriodNs : (s.latchPeriod).linePeriodNs = nsPerSec / s.lineHz := rfl
@[simp] theorem latchPeriod_timer : (s.latchPeriod).timer = s.timer := rfl
@[simp] theorem latchPeriod_gotStartrender : (s.latchPeriod).gotStartrender = s.gotStartrender := rfl
@[simp] theorem latchPeriod_vblankCount : (s.latchPeriod).vblankCount = s.vblankCount := rfl
@[simp] theorem latchPeriod_fbOut : (s.latchPeriod).fbOut = s.fbOut := rfl
@[simp] theorem latchPeriod_fault : (s.latchPeriod).fault = s.fault := rfl
@[simp] theorem latchPeriod_live : (s.latchPeriod).live = s.live := rfl
@[simp] theorem latchPeriod_trace : (s.latchPeriod).trace = s.trace := rfl
@[simp] theorem latchPeriod_reply : (s.latchPeriod).reply = s.reply := rfl
@[simp] theorem latchPeriod_inbox : (s.latchPeriod).inbox = s.inbox := rfl
@[simp] theorem latchPeriod_reg (k : Nat) : (s.latchPeriod).reg k = s.reg k := rfl
@[simp] theorem latchPeriod_get (f : FieldName) : (s.latchPeriod).get f = s.get f := rfl
@[simp] theorem latchPeriod_flag (f : FieldName) : (s.latchPeriod).flag f = s.flag f := rfl
@[simp] theorem latchPeriod_word (n : RegName) : (s.latchPeriod).word n = s.word n := rfl
@[simp] theorem latchPeriod_vramByte (k : Nat) : (s.latchPeriod).vramByte k = s.vramByte k := rfl
@[simp] theorem latchPeriod_accepts : (s.latchPeriod).accepts = s.accepts := rfl

/-! ### stepLine -/

@[simp] theorem stepLine_config : (s.stepLine).config = s.config := rfl
@[simp] theorem stepLine_off (n : RegName) : (s.stepLine).off n = s.off n := rfl
@[simp] theorem stepLine_now : (s.stepLine).now = s.now := rfl
@[simp] theorem stepLine_regs : (s.stepLine).regs = s.regs := rfl
@[simp] theorem stepLine_vram : (s.stepLine).vram = s.vram := rfl
@[simp] theorem stepLine_currentLine : (s.stepLine).currentLine = (s.currentLine + 1) % (s.get .vcount + 1) := rfl
@[simp] theorem stepLine_field : (s.stepLine).field = s.field := rfl
@[simp] theorem stepLine_vsync : (s.stepLine).vsync = s.vsync := rfl
@[simp] theorem stepLine_linePeriodNs : (s.stepLine).linePeriodNs = s.linePeriodNs := rfl
@[simp] theorem stepLine_timer : (s.stepLine).timer = s.timer := rfl
@[simp] theorem stepLine_gotStartrender : (s.stepLine).gotStartrender = s.gotStartrender := rfl
@[simp] theorem stepLine_vblankCount : (s.stepLine).vblankCount = s.vblankCount := rfl
@[simp] theorem stepLine_fbOut : (s.stepLine).fbOut = s.fbOut := rfl
@[simp] theorem stepLine_fault : (s.stepLine).fault = s.fault := rfl
@[simp] theorem stepLine_live : (s.stepLine).live = s.live := rfl
@[simp] theorem stepLine_trace : (s.stepLine).trace = s.trace := rfl
@[simp] theorem stepLine_reply : (s.stepLine).reply = s.reply := rfl
@[simp] theorem stepLine_inbox : (s.stepLine).inbox = s.inbox := rfl
@[simp] theorem stepLine_reg (k : Nat) : (s.stepLine).reg k = s.reg k := rfl
@[simp] theorem stepLine_get (f : FieldName) : (s.stepLine).get f = s.get f := rfl
@[simp] theorem stepLine_flag (f : FieldName) : (s.stepLine).flag f = s.flag f := rfl
@[simp] theorem stepLine_word (n : RegName) : (s.stepLine).word n = s.word n := rfl
@[simp] theorem stepLine_vramByte (k : Nat) : (s.stepLine).vramByte k = s.vramByte k := rfl
@[simp] theorem stepLine_accepts : (s.stepLine).accepts = s.accepts := rfl

/-! ### stepVsync -/

@[simp] theorem stepVsync_config : (s.stepVsync).config = s.config := rfl
@[simp] theorem stepVsync_off (n : RegName) : (s.stepVsync).off n = s.off n := rfl
@[simp] theorem stepVsync_now : (s.stepVsync).now = s.now := rfl
@[simp] theorem stepVsync_regs : (s.stepVsync).regs = s.regs := rfl
@[simp] theorem stepVsync_vram : (s.stepVsync).vram = s.vram := rfl
@[simp] theorem stepVsync_currentLine : (s.stepVsync).currentLine = s.currentLine := rfl
@[simp] theorem stepVsync_field : (s.stepVsync).field = s.field := rfl
@[simp] theorem stepVsync_vsync : (s.stepVsync).vsync = vsyncOf (s.get .vbstart) (s.get .vbend) s.currentLine := rfl
@[simp] theorem stepVsync_linePeriodNs : (s.stepVsync).linePeriodNs = s.linePeriodNs := rfl
@[simp] theorem stepVsync_timer : (s.stepVsync).timer = s.timer := rfl
@[simp] theorem stepVsync_gotStartrender : (s.stepVsync).gotStartrender = s.gotStartrender := rfl
@[simp] theorem stepVsync_vblankCount : (s.stepVsync).vblankCount = s.vblankCount := rfl
@[simp] theorem stepVsync_fbOut : (s.stepVsync).fbOut = s.fbOut := rfl
@[simp] theorem stepVsync_fault : (s.stepVsync).fault = s.fault := rfl
@[simp] theorem stepVsync_live : (s.stepVsync).live = s.live := rfl
@[simp] theorem stepVsync_trace : (s.stepVsync).trace = s.trace := rfl
@[simp] theorem stepVsync_reply : (s.stepVsync).reply = s.reply := rfl
@[simp] theorem stepVsync_inbox : (s.stepVsync).inbox = s.inbox := rfl
@[simp] theorem stepVsync_reg (k : Nat) : (s.stepVsync).reg k = s.reg k := rfl
@[simp] theorem stepVsync_get (f : FieldName) : (s.stepVsync).get f = s.get f := rfl
@[simp] theorem stepVsync_flag (f : FieldName) : (s.stepVsync).flag f = s.flag f := rfl
@[simp] theorem stepVsync_word (n : RegName) : (s.stepVsync).word n = s.word n := rfl
@[simp] theorem stepVsync_vramByte (k : Nat) : (s.stepVsync).vramByte k = s.vramByte k := rfl
@[simp] theorem stepVsync_accepts : (s.stepVsync).accepts = s.accepts := rfl

/-! ### countVblank -/

@[simp] theorem countVblank_config : (s.countVblank).config = s.config := rfl
@[simp] theorem countVblank_off (n : RegName) : (s.countVblank).off n = s.off n := rfl
@[simp] theorem countVblank_now : (s.countVblank).now = s.now := rfl
@[simp] theorem countVblank_regs : (s.countVblank).regs = s.regs := rfl
@[simp] theorem countVblank_vram : (s.countVblank).vram = s.vram := rfl
@[simp] theorem countVblank_currentLine : (s.countVblank).currentLine = s.currentLine := rfl
@[simp] theorem countVblank_field : (s.countVblank).field = s.field := rfl
@[simp] theorem countVblank_vsync : (s.countVblank).vsync = s.vsync := rfl
@[simp] theorem countVblank_linePeriodNs : (s.countVblank).linePeriodNs = s.linePeriodNs := rfl
@[simp] theorem countVblank_timer : (s.countVblank).timer = s.timer := rfl
@[simp] theorem countVblank_gotStartrender : (s.countVblank).gotStartrender = s.gotStartrender := rfl
@[simp] theorem countVblank_vblankCount : (s.countVblank).vblankCount = s.vblankCount + 1 := rfl
@[simp] theorem countVblank_fbOut : (s.countVblank).fbOut = s.fbOut := rfl
@[simp] theorem countVblank_fault : (s.countVblank).fault = s.fault := rfl
@[simp] theorem countVblank_live : (s.countVblank).live = s.live := rfl
@[simp] theorem countVblank_trace : (s.countVblank).trace = s.trace ++ [.counterAdd s.config.vblankCounter 1] := rfl
@[simp] theorem countVblank_reply : (s.countVblank).reply = s.reply := rfl
@[simp] theorem countVblank_inbox : (s.countVblank).inbox = s.inbox := rfl
@[simp] theorem countVblank_reg (k : Nat) : (s.countVblank).reg k = s.reg k := rfl
@[simp] theorem countVblank_get (f : FieldName) : (s.countVblank).get f = s.get f := rfl
@[simp] theorem countVblank_flag (f : FieldName) : (s.countVblank).flag f = s.flag f := rfl
@[simp] theorem countVblank_word (n : RegName) : (s.countVblank).word n = s.word n := rfl
@[simp] theorem countVblank_vramByte (k : Nat) : (s.countVblank).vramByte k = s.vramByte k := rfl
@[simp] theorem countVblank_accepts : (s.countVblank).accepts = s.accepts := rfl

/-! ### toggleField -/

@[simp] theorem toggleField_config : (s.toggleField).config = s.config := rfl
@[simp] theorem toggleField_off (n : RegName) : (s.toggleField).off n = s.off n := rfl
@[simp] theorem toggleField_now : (s.toggleField).now = s.now := rfl
@[simp] theorem toggleField_regs : (s.toggleField).regs = s.regs := rfl
@[simp] theorem toggleField_vram : (s.toggleField).vram = s.vram := rfl
@[simp] theorem toggleField_currentLine : (s.toggleField).currentLine = s.currentLine := rfl
@[simp] theorem toggleField_field : (s.toggleField).field = nextField (s.flag .interlace) s.field := rfl
@[simp] theorem toggleField_vsync : (s.toggleField).vsync = s.vsync := rfl
@[simp] theorem toggleField_linePeriodNs : (s.toggleField).linePeriodNs = s.linePeriodNs := rfl
@[simp] theorem toggleField_timer : (s.toggleField).timer = s.timer := rfl
@[simp] theorem toggleField_gotStartrender : (s.toggleField).gotStartrender = s.gotStartrender := rfl
@[simp] theorem toggleField_vblankCount : (s.toggleField).vblankCount = s.vblankCount := rfl
@[simp] theorem toggleField_fbOut : (s.toggleField).fbOut = s.fbOut := rfl
@[simp] theorem toggleField_fault : (s.toggleField).fault = s.fault := rfl
@[simp] theorem toggleField_live : (s.toggleField).live = s.live := rfl
@[simp] theorem toggleField_trace : (s.toggleField).trace = s.trace ++ [.vblankIn (s.flag .blankVideo)] := rfl
@[simp] theorem toggleField_reply : (s.toggleField).reply = s.reply := rfl
@[simp] theorem toggleField_inbox : (s.toggleField).inbox = s.inbox := rfl
@[simp] theorem toggleField_reg (k : Nat) : (s.toggleField).reg k = s.reg k := rfl
@[simp] theorem toggleField_get (f : FieldName) : (s.toggleField).get f = s.get f := rfl
@[simp] theorem toggleField_flag (f : FieldName) : (s.toggleField).flag f = s.flag f := rfl
@[simp] theorem toggleField_word (n : RegName) : (s.toggleField).word n = s.word n := rfl
@[simp] theorem toggleField_vramByte (k : Nat) : (s.toggleField).vramByte k = s.vramByte k := rfl
@[simp] theorem toggleField_accepts : (s.toggleField).accepts = s.accepts := rfl

/-! ### pushFrame -/

@[simp] theorem pushFrame_config (fr : Frame) : (s.pushFrame fr).config = s.config := rfl
@[simp] theorem pushFrame_off (fr : Frame) (n : RegName) : (s.pushFrame fr).off n = s.off n := rfl
@[simp] theorem pushFrame_now (fr : Frame) : (s.pushFrame fr).now = s.now := rfl
@[simp] theorem pushFrame_regs (fr : Frame) : (s.pushFrame fr).regs = s.regs := rfl
@[simp] theorem pushFrame_vram (fr : Frame) : (s.pushFrame fr).vram = s.vram := rfl
@[simp] theorem pushFrame_currentLine (fr : Frame) : (s.pushFrame fr).currentLine = s.currentLine := rfl
@[simp] theorem pushFrame_field (fr : Frame) : (s.pushFrame fr).field = s.field := rfl
@[simp] theorem pushFrame_vsync (fr : Frame) : (s.pushFrame fr).vsync = s.vsync := rfl
@[simp] theorem pushFrame_linePeriodNs (fr : Frame) : (s.pushFrame fr).linePeriodNs = s.linePeriodNs := rfl
@[simp] theorem pushFrame_timer (fr : Frame) : (s.pushFrame fr).timer = s.timer := rfl
@[simp] theorem pushFrame_gotStartrender (fr : Frame) : (s.pushFrame fr).gotStartrender = s.gotStartrender := rfl
@[simp] theorem pushFrame_vblankCount (fr : Frame) : (s.pushFrame fr).vblankCount = s.vblankCount := rfl
@[simp] theorem pushFrame_fbOut (fr : Frame) : (s.pushFrame fr).fbOut = some fr := rfl
@[simp] theorem pushFrame_fault (fr : Frame) : (s.pushFrame fr).fault = s.fault := rfl
@[simp] theorem pushFrame_live (fr : Frame) : (s.pushFrame fr).live = s.live := rfl
@[simp] theorem pushFrame_trace (fr : Frame) : (s.pushFrame fr).trace = s.trace ++ [.pushFrame fr] := rfl
@[simp] theorem pushFrame_reply (fr : Frame) : (s.pushFrame fr).reply = s.reply := rfl
@[simp] theorem pushFrame_inbox (fr : Frame) : (s.pushFrame fr).inbox = s.inbox := rfl
@[simp] theorem pushFrame_reg (fr : Frame) (k : Nat) : (s.pushFrame fr).reg k = s.reg k := rfl
@[simp] theorem pushFrame_get (fr : Frame) (f : FieldName) : (s.pushFrame fr).get f = s.get f := rfl
@[simp] theorem pushFrame_flag (fr : Frame) (f : FieldName) : (s.pushFrame fr).flag f = s.flag f := rfl
@[simp] theorem pushFrame_word (fr : Frame) (n : RegName) : (s.pushFrame fr).word n = s.word n := rfl
@[simp] theorem pushFrame_vramByte (fr : Frame) (k : Nat) : (s.pushFrame fr).vramByte k = s.vramByte k := rfl
@[simp] theorem pushFrame_accepts (fr : Frame) : (s.pushFrame fr).accepts = s.accepts := rfl

/-! ### vblankOutEvent -/

@[simp] theorem vblankOutEvent_config : (s.vblankOutEvent).config = s.config := rfl
@[simp] theorem vblankOutEvent_off (n : RegName) : (s.vblankOutEvent).off n = s.off n := rfl
@[simp] theorem vblankOutEvent_now : (s.vblankOutEvent).now = s.now := rfl
@[simp] theorem vblankOutEvent_regs : (s.vblankOutEvent).regs = s.regs := rfl
@[simp] theorem vblankOutEvent_vram : (s.vblankOutEvent).vram = s.vram := rfl
@[simp] theorem vblankOutEvent_currentLine : (s.vblankOutEvent).currentLine = s.currentLine := rfl
@[simp] theorem vblankOutEvent_field : (s.vblankOutEvent).field = s.field := rfl
@[simp] theorem vblankOutEvent_vsync : (s.vblankOutEvent).vsync = s.vsync := rfl
@[simp] theorem vblankOutEvent_linePeriodNs : (s.vblankOutEvent).linePeriodNs = s.linePeriodNs := rfl
@[simp] theorem vblankOutEvent_timer : (s.vblankOutEvent).timer = s.timer := rfl
@[simp] theorem vblankOutEvent_gotStartrender : (s.vblankOutEvent).gotStartrender = s.gotStartrender := rfl
@[simp] theorem vblankOutEvent_vblankCount : (s.vblankOutEvent).vblankCount = s.vblankCount := rfl
@[simp] theorem vblankOutEvent_fbOut : (s.vblankOutEvent).fbOut = s.fbOut := rfl
@[simp] theorem vblankOutEvent_fault : (s.vblankOutEvent).fault = s.fault := rfl
@[simp] theorem vblankOutEvent_live : (s.vblankOutEvent).live = s.live := rfl
@[simp] theorem vblankOutEvent_trace : (s.vblankOutEvent).trace = s.trace ++ [.vblankOut] := rfl
@[simp] theorem vblankOutEvent_reply : (s.vblankOutEvent).reply = s.reply := rfl
@[simp] theorem vblankOutEvent_inbox : (s.vblankOutEvent).inbox = s.inbox := rfl
@[simp] theorem vblankOutEvent_reg (k : Nat) : (s.vblankOutEvent).reg k = s.reg k := rfl
@[simp] theorem vblankOutEvent_get (f : FieldName) : (s.vblankOutEvent).get f = s.get f := rfl
@[simp] theorem vblankOutEvent_flag (f : FieldName) : (s.vblankOutEvent).flag f = s.flag f := rfl
@[simp] theorem vblankOutEvent_word (n : RegName) : (s.vblankOutEvent).word n = s.word n := rfl
@[simp] theorem vblankOutEvent_vramByte (k : Nat) : (s.vblankOutEvent).vramByte k = s.vramByte k := rfl
@[simp] theorem vblankOutEvent_accepts : (s.vblankOutEvent).accepts = s.accepts := rfl

/-! ### stepMirror -/

@[simp] theorem stepMirror_config : (s.stepMirror).config = s.config := rfl
@[simp] theorem stepMirror_off (n : RegName) : (s.stepMirror).off n = s.off n := rfl
@[simp] theorem stepMirror_now : (s.stepMirror).now = s.now := rfl
@[simp] theorem stepMirror_regs : (s.stepMirror).regs = cellsWrite 0 s.regs (s.off .spgStatus)
      (mirrorWord s.config.regMap s.currentLine s.field s.vsync (s.word .spgStatus)) := rfl
@[simp] theorem stepMirror_vram : (s.stepMirror).vram = s.vram := rfl
@[simp] theorem stepMirror_currentLine : (s.stepMirror).currentLine = s.currentLine := rfl
@[simp] theorem stepMirror_field : (s.stepMirror).field = s.field := rfl
@[simp] theorem stepMirror_vsync : (s.stepMirror).vsync = s.vsync := rfl
@[simp] theorem stepMirror_linePeriodNs : (s.stepMirror).linePeriodNs = s.linePeriodNs := rfl
@[simp] theorem stepMirror_timer : (s.stepMirror).timer = s.timer := rfl
@[simp] theorem stepMirror_gotStartrender : (s.stepMirror).gotStartrender = s.gotStartrender := rfl
@[simp] theorem stepMirror_vblankCount : (s.stepMirror).vblankCount = s.vblankCount := rfl
@[simp] theorem stepMirror_fbOut : (s.stepMirror).fbOut = s.fbOut := rfl
@[simp] theorem stepMirror_fault : (s.stepMirror).fault = s.fault := rfl
@[simp] theorem stepMirror_live : (s.stepMirror).live = s.live := rfl
@[simp] theorem stepMirror_trace : (s.stepMirror).trace = s.trace := rfl
@[simp] theorem stepMirror_reply : (s.stepMirror).reply = s.reply := rfl
@[simp] theorem stepMirror_inbox : (s.stepMirror).inbox = s.inbox := rfl
@[simp] theorem stepMirror_vramByte (k : Nat) : (s.stepMirror).vramByte k = s.vramByte k := rfl
@[simp] theorem stepMirror_accepts : (s.stepMirror).accepts = s.accepts := rfl

/-! ### revive -/

@[simp] theorem revive_config : (s.revive).config = s.config := rfl
@[simp] theorem revive_off (n : RegName) : (s.revive).off n = s.off n := rfl
@[simp] theorem revive_now : (s.revive).now = s.now := rfl
@[simp] theorem revive_regs : (s.revive).regs = s.regs := rfl
@[simp] theorem revive_vram : (s.revive).vram = s.vram := rfl
@[simp] theorem revive_currentLine : (s.revive).currentLine = s.currentLine := rfl
@[simp] theorem revive_field : (s.revive).field = s.field := rfl
@[simp] theorem revive_vsync : (s.revive).vsync = s.vsync := rfl
@[simp] theorem revive_linePeriodNs : (s.revive).linePeriodNs = s.linePeriodNs := rfl
@[simp] theorem revive_timer : (s.revive).timer = s.timer := rfl
@[simp] theorem revive_gotStartrender : (s.revive).gotStartrender = s.gotStartrender := rfl
@[simp] theorem revive_vblankCount : (s.revive).vblankCount = s.vblankCount := rfl
@[simp] theorem revive_fbOut : (s.revive).fbOut = s.fbOut := rfl
@[simp] theorem revive_fault : (s.revive).fault = none := rfl
@[simp] theorem revive_live : (s.revive).live = true := rfl
@[simp] theorem revive_trace : (s.revive).trace = s.trace := rfl
@[simp] theorem revive_reply : (s.revive).reply = s.reply := rfl
@[simp] theorem revive_inbox : (s.revive).inbox = s.inbox := rfl
@[simp] theorem revive_reg (k : Nat) : (s.revive).reg k = s.reg k := rfl
@[simp] theorem revive_get (f : FieldName) : (s.revive).get f = s.get f := rfl
@[simp] theorem revive_flag (f : FieldName) : (s.revive).flag f = s.flag f := rfl
@[simp] theorem revive_word (n : RegName) : (s.revive).word n = s.word n := rfl
@[simp] theorem revive_vramByte (k : Nat) : (s.revive).vramByte k = s.vramByte k := rfl

/-! ### resetBlock -/

@[simp] theorem resetBlock_config : (s.resetBlock).config = s.config := rfl
@[simp] theorem resetBlock_off (n : RegName) : (s.resetBlock).off n = s.off n := rfl
@[simp] theorem resetBlock_now : (s.resetBlock).now = s.now := rfl
@[simp] theorem resetBlock_regs : (s.resetBlock).regs = resetRegs s.config.regMap.numRegs s.config.regReset := rfl
@[simp] theorem resetBlock_vram : (s.resetBlock).vram = s.vram := rfl
@[simp] theorem resetBlock_currentLine : (s.resetBlock).currentLine = s.currentLine := rfl
@[simp] theorem resetBlock_field : (s.resetBlock).field = s.field := rfl
@[simp] theorem resetBlock_vsync : (s.resetBlock).vsync = s.vsync := rfl
@[simp] theorem resetBlock_linePeriodNs : (s.resetBlock).linePeriodNs = s.linePeriodNs := rfl
@[simp] theorem resetBlock_timer : (s.resetBlock).timer = s.timer := rfl
@[simp] theorem resetBlock_gotStartrender : (s.resetBlock).gotStartrender = false := rfl
@[simp] theorem resetBlock_vblankCount : (s.resetBlock).vblankCount = 0 := rfl
@[simp] theorem resetBlock_fbOut : (s.resetBlock).fbOut = none := rfl
@[simp] theorem resetBlock_fault : (s.resetBlock).fault = none := rfl
@[simp] theorem resetBlock_live : (s.resetBlock).live = true := rfl
@[simp] theorem resetBlock_trace : (s.resetBlock).trace = s.trace := rfl
@[simp] theorem resetBlock_reply : (s.resetBlock).reply = s.reply := rfl
@[simp] theorem resetBlock_inbox : (s.resetBlock).inbox = s.inbox := rfl
@[simp] theorem resetBlock_vramByte (k : Nat) : (s.resetBlock).vramByte k = s.vramByte k := rfl

/-! ### atTime -/

@[simp] theorem atTime_config (t : Nat) : (s.atTime t).config = s.config := rfl
@[simp] theorem atTime_off (t : Nat) (n : RegName) : (s.atTime t).off n = s.off n := rfl
@[simp] theorem atTime_now (t : Nat) : (s.atTime t).now = t := rfl
@[simp] theorem atTime_regs (t : Nat) : (s.atTime t).regs = s.regs := rfl
@[simp] theorem atTime_vram (t : Nat) : (s.atTime t).vram = s.vram := rfl
@[simp] theorem atTime_currentLine (t : Nat) : (s.atTime t).currentLine = s.currentLine := rfl
@[simp] theorem atTime_field (t : Nat) : (s.atTime t).field = s.field := rfl
@[simp] theorem atTime_vsync (t : Nat) : (s.atTime t).vsync = s.vsync := rfl
@[simp] theorem atTime_linePeriodNs (t : Nat) : (s.atTime t).linePeriodNs = s.linePeriodNs := rfl
@[simp] theorem atTime_timer (t : Nat) : (s.atTime t).timer = s.timer := rfl
@[simp] theorem atTime_gotStartrender (t : Nat) : (s.atTime t).gotStartrender = s.gotStartrender := rfl
@[simp] theorem atTime_vblankCount (t : Nat) : (s.atTime t).vblankCount = s.vblankCount := rfl
@[simp] theorem atTime_fbOut (t : Nat) : (s.atTime t).fbOut = s.fbOut := rfl
@[simp] theorem atTime_fault (t : Nat) : (s.atTime t).fault = s.fault := rfl
@[simp] theorem atTime_live (t : Nat) : (s.atTime t).live = s.live := rfl
@[simp] theorem atTime_trace (t : Nat) : (s.atTime t).trace = s.trace := rfl
@[simp] theorem atTime_reply (t : Nat) : (s.atTime t).reply = s.reply := rfl
@[simp] theorem atTime_inbox (t : Nat) : (s.atTime t).inbox = s.inbox := rfl
@[simp] theorem atTime_reg (t : Nat) (k : Nat) : (s.atTime t).reg k = s.reg k := rfl
@[simp] theorem atTime_get (t : Nat) (f : FieldName) : (s.atTime t).get f = s.get f := rfl
@[simp] theorem atTime_flag (t : Nat) (f : FieldName) : (s.atTime t).flag f = s.flag f := rfl
@[simp] theorem atTime_word (t : Nat) (n : RegName) : (s.atTime t).word n = s.word n := rfl
@[simp] theorem atTime_vramByte (t : Nat) (k : Nat) : (s.atTime t).vramByte k = s.vramByte k := rfl
@[simp] theorem atTime_accepts (t : Nat) : (s.atTime t).accepts = s.accepts := rfl

/-! ### take -/

@[simp] theorem take_config (q : List Request) : (s.take q).config = s.config := rfl
@[simp] theorem take_off (q : List Request) (n : RegName) : (s.take q).off n = s.off n := rfl
@[simp] theorem take_now (q : List Request) : (s.take q).now = s.now := rfl
@[simp] theorem take_regs (q : List Request) : (s.take q).regs = s.regs := rfl
@[simp] theorem take_vram (q : List Request) : (s.take q).vram = s.vram := rfl
@[simp] theorem take_currentLine (q : List Request) : (s.take q).currentLine = s.currentLine := rfl
@[simp] theorem take_field (q : List Request) : (s.take q).field = s.field := rfl
@[simp] theorem take_vsync (q : List Request) : (s.take q).vsync = s.vsync := rfl
@[simp] theorem take_linePeriodNs (q : List Request) : (s.take q).linePeriodNs = s.linePeriodNs := rfl
@[simp] theorem take_timer (q : List Request) : (s.take q).timer = s.timer := rfl
@[simp] theorem take_gotStartrender (q : List Request) : (s.take q).gotStartrender = s.gotStartrender := rfl
@[simp] theorem take_vblankCount (q : List Request) : (s.take q).vblankCount = s.vblankCount := rfl
@[simp] theorem take_fbOut (q : List Request) : (s.take q).fbOut = s.fbOut := rfl
@[simp] theorem take_fault (q : List Request) : (s.take q).fault = s.fault := rfl
@[simp] theorem take_live (q : List Request) : (s.take q).live = s.live := rfl
@[simp] theorem take_trace (q : List Request) : (s.take q).trace = s.trace := rfl
@[simp] theorem take_reply (q : List Request) : (s.take q).reply = s.reply := rfl
@[simp] theorem take_inbox (q : List Request) : (s.take q).inbox = q := rfl
@[simp] theorem take_reg (q : List Request) (k : Nat) : (s.take q).reg k = s.reg k := rfl
@[simp] theorem take_get (q : List Request) (f : FieldName) : (s.take q).get f = s.get f := rfl
@[simp] theorem take_flag (q : List Request) (f : FieldName) : (s.take q).flag f = s.flag f := rfl
@[simp] theorem take_word (q : List Request) (n : RegName) : (s.take q).word n = s.word n := rfl
@[simp] theorem take_vramByte (q : List Request) (k : Nat) : (s.take q).vramByte k = s.vramByte k := rfl
@[simp] theorem take_accepts (q : List Request) : (s.take q).accepts = s.accepts := rfl

/-! ### cancel -/

@[simp] theorem cancel_config : (s.cancel).config = s.config := by
  unfold State.cancel; split <;> rfl
@[simp] theorem cancel_off (n : RegName) : (s.cancel).off n = s.off n := by
  simp [State.off]
@[simp] theorem cancel_now : (s.cancel).now = s.now := by
  unfold State.cancel; split <;> rfl
@[simp] theorem cancel_regs : (s.cancel).regs = s.regs := by
  unfold State.cancel; split <;> rfl
@[simp] theorem cancel_vram : (s.cancel).vram = s.vram := by
  unfold State.cancel; split <;> rfl
@[simp] theorem cancel_currentLine : (s.cancel).currentLine = s.currentLine := by
  unfold State.cancel; split <;> rfl
@[simp] theorem cancel_field : (s.cancel).field = s.field := by
  unfold State.cancel; split <;> rfl
@[simp] theorem cancel_vsync : (s.cancel).vsync = s.vsync := by
  unfold State.cancel; split <;> rfl
@[simp] theorem cancel_linePeriodNs : (s.cancel).linePeriodNs = s.linePeriodNs := by
  unfold State.cancel; split <;> rfl
@[simp] theorem cancel_gotStartrender : (s.cancel).gotStartrender = s.gotStartrender := by
  unfold State.cancel; split <;> rfl
@[simp] theorem cancel_vblankCount : (s.cancel).vblankCount = s.vblankCount := by
  unfold State.cancel; split <;> rfl
@[simp] theorem cancel_fbOut : (s.cancel).fbOut = s.fbOut := by
  unfold State.cancel; split <;> rfl
@[simp] theorem cancel_fault : (s.cancel).fault = s.fault := by
  unfold State.cancel; split <;> rfl
@[simp] theorem cancel_live : (s.cancel).live = s.live := by
  unfold State.cancel; split <;> rfl
@[simp] theorem cancel_reply : (s.cancel).reply = s.reply := by
  unfold State.cancel; split <;> rfl
@[simp] theorem cancel_inbox : (s.cancel).inbox = s.inbox := by
  unfold State.cancel; split <;> rfl
@[simp] theorem cancel_reg (k : Nat) : (s.cancel).reg k = s.reg k := by
  simp [State.reg]
@[simp] theorem cancel_get (f : FieldName) : (s.cancel).get f = s.get f := by
  simp [State.get]
@[simp] theorem cancel_flag (f : FieldName) : (s.cancel).flag f = s.flag f := by
  simp [State.flag]
@[simp] theorem cancel_word (n : RegName) : (s.cancel).word n = s.word n := by
  simp [State.word]
@[simp] theorem cancel_vramByte (k : Nat) : (s.cancel).vramByte k = s.vramByte k := by
  simp [State.vramByte]
@[simp] theorem cancel_accepts : (s.cancel).accepts = s.accepts := by
  simp [State.accepts]

/-! ### emitIf -/

@[simp] theorem emitIf_config (p : Bool) (e : Event) : (s.emitIf p e).config = s.config := by
  unfold State.emitIf; split <;> rfl
@[simp] theorem emitIf_off (p : Bool) (e : Event) (n : RegName) : (s.emitIf p e).off n = s.off n := by
  simp [State.off]
@[simp] theorem emitIf_now (p : Bool) (e : Event) : (s.emitIf p e).now = s.now := by
  unfold State.emitIf; split <;> rfl
@[simp] theorem emitIf_regs (p : Bool) (e : Event) : (s.emitIf p e).regs = s.regs := by
  unfold State.emitIf; split <;> rfl
@[simp] theorem emitIf_vram (p : Bool) (e : Event) : (s.emitIf p e).vram = s.vram := by
  unfold State.emitIf; split <;> rfl
@[simp] theorem emitIf_currentLine (p : Bool) (e : Event) : (s.emitIf p e).currentLine = s.currentLine := by
  unfold State.emitIf; split <;> rfl
@[simp] theorem emitIf_field (p : Bool) (e : Event) : (s.emitIf p e).field = s.field := by
  unfold State.emitIf; split <;> rfl
@[simp] theorem emitIf_vsync (p : Bool) (e : Event) : (s.emitIf p e).vsync = s.vsync := by
  unfold State.emitIf; split <;> rfl
@[simp] theorem emitIf_linePeriodNs (p : Bool) (e : Event) : (s.emitIf p e).linePeriodNs = s.linePeriodNs := by
  unfold State.emitIf; split <;> rfl
@[simp] theorem emitIf_timer (p : Bool) (e : Event) : (s.emitIf p e).timer = s.timer := by
  unfold State.emitIf; split <;> rfl
@[simp] theorem emitIf_gotStartrender (p : Bool) (e : Event) : (s.emitIf p e).gotStartrender = s.gotStartrender := by
  unfold State.emitIf; split <;> rfl
@[simp] theorem emitIf_vblankCount (p : Bool) (e : Event) : (s.emitIf p e).vblankCount = s.vblankCount := by
  unfold State.emitIf; split <;> rfl
@[simp] theorem emitIf_fbOut (p : Bool) (e : Event) : (s.emitIf p e).fbOut = s.fbOut := by
  unfold State.emitIf; split <;> rfl
@[simp] theorem emitIf_fault (p : Bool) (e : Event) : (s.emitIf p e).fault = s.fault := by
  unfold State.emitIf; split <;> rfl
@[simp] theorem emitIf_live (p : Bool) (e : Event) : (s.emitIf p e).live = s.live := by
  unfold State.emitIf; split <;> rfl
@[simp] theorem emitIf_reply (p : Bool) (e : Event) : (s.emitIf p e).reply = s.reply := by
  unfold State.emitIf; split <;> rfl
@[simp] theorem emitIf_inbox (p : Bool) (e : Event) : (s.emitIf p e).inbox = s.inbox := by
  unfold State.emitIf; split <;> rfl
@[simp] theorem emitIf_reg (p : Bool) (e : Event) (k : Nat) : (s.emitIf p e).reg k = s.reg k := by
  simp [State.reg]
@[simp] theorem emitIf_get (p : Bool) (e : Event) (f : FieldName) : (s.emitIf p e).get f = s.get f := by
  simp [State.get]
@[simp] theorem emitIf_flag (p : Bool) (e : Event) (f : FieldName) : (s.emitIf p e).flag f = s.flag f := by
  simp [State.flag]
@[simp] theorem emitIf_word (p : Bool) (e : Event) (n : RegName) : (s.emitIf p e).word n = s.word n := by
  simp [State.word]
@[simp] theorem emitIf_vramByte (p : Bool) (e : Event) (k : Nat) : (s.emitIf p e).vramByte k = s.vramByte k := by
  simp [State.vramByte]
@[simp] theorem emitIf_accepts (p : Bool) (e : Event) : (s.emitIf p e).accepts = s.accepts := by
  simp [State.accepts]

/-! ### stepVblankIn -/

@[simp] theorem stepVblankIn_config : (s.stepVblankIn).config = s.config := by
  unfold State.stepVblankIn; split <;> rfl
@[simp] theorem stepVblankIn_off (n : RegName) : (s.stepVblankIn).off n = s.off n := by
  simp [State.off]
@[simp] theorem stepVblankIn_now : (s.stepVblankIn).now = s.now := by
  unfold State.stepVblankIn; split <;> rfl
@[simp] theorem stepVblankIn_regs : (s.stepVblankIn).regs = s.regs := by
  unfold State.stepVblankIn; split <;> rfl
@[simp] theorem stepVblankIn_vram : (s.stepVblankIn).vram = s.vram := by
  unfold State.stepVblankIn; split <;> rfl
@[simp] theorem stepVblankIn_currentLine : (s.stepVblankIn).currentLine = s.currentLine := by
  unfold State.stepVblankIn; split <;> rfl
@[simp] theorem stepVblankIn_field : (s.stepVblankIn).field = s.field := by
  unfold State.stepVblankIn; split <;> rfl
@[simp] theorem stepVblankIn_vsync : (s.stepVblankIn).vsync = s.vsync := by
  unfold State.stepVblankIn; split <;> rfl
@[simp] theorem stepVblankIn_linePeriodNs : (s.stepVblankIn).linePeriodNs = s.linePeriodNs := by
  unfold State.stepVblankIn; split <;> rfl
@[simp] theorem stepVblankIn_timer : (s.stepVblankIn).timer = s.timer := by
  unfold State.stepVblankIn; split <;> rfl
@[simp] theorem stepVblankIn_gotStartrender : (s.stepVblankIn).gotStartrender = s.gotStartrender := by
  unfold State.stepVblankIn; split <;> rfl
@[simp] theorem stepVblankIn_vblankCount : (s.stepVblankIn).vblankCount = s.vblankCount := by
  unfold State.stepVblankIn; split <;> rfl
@[simp] theorem stepVblankIn_fbOut : (s.stepVblankIn).fbOut = s.fbOut := by
  unfold State.stepVblankIn; split <;> rfl
@[simp] theorem stepVblankIn_fault : (s.stepVblankIn).fault = s.fault := by
  unfold State.stepVblankIn; split <;> rfl
@[simp] theorem stepVblankIn_live : (s.stepVblankIn).live = s.live := by
  unfold State.stepVblankIn; split <;> rfl
@[simp] theorem stepVblankIn_reply : (s.stepVblankIn).reply = s.reply := by
  unfold State.stepVblankIn; split <;> rfl
@[simp] theorem stepVblankIn_inbox : (s.stepVblankIn).inbox = s.inbox := by
  unfold State.stepVblankIn; split <;> rfl
@[simp] theorem stepVblankIn_reg (k : Nat) : (s.stepVblankIn).reg k = s.reg k := by
  simp [State.reg]
@[simp] theorem stepVblankIn_get (f : FieldName) : (s.stepVblankIn).get f = s.get f := by
  simp [State.get]
@[simp] theorem stepVblankIn_flag (f : FieldName) : (s.stepVblankIn).flag f = s.flag f := by
  simp [State.flag]
@[simp] theorem stepVblankIn_word (n : RegName) : (s.stepVblankIn).word n = s.word n := by
  simp [State.word]
@[simp] theorem stepVblankIn_vramByte (k : Nat) : (s.stepVblankIn).vramByte k = s.vramByte k := by
  simp [State.vramByte]
@[simp] theorem stepVblankIn_accepts : (s.stepVblankIn).accepts = s.accepts := by
  simp [State.accepts]

/-! ### stepVblankOut -/

@[simp] theorem stepVblankOut_config : (s.stepVblankOut).config = s.config := by
  unfold State.stepVblankOut; split <;> rfl
@[simp] theorem stepVblankOut_off (n : RegName) : (s.stepVblankOut).off n = s.off n := by
  simp [State.off]
@[simp] theorem stepVblankOut_now : (s.stepVblankOut).now = s.now := by
  unfold State.stepVblankOut; split <;> rfl
@[simp] theorem stepVblankOut_regs : (s.stepVblankOut).regs = s.regs := by
  unfold State.stepVblankOut; split <;> rfl
@[simp] theorem stepVblankOut_vram : (s.stepVblankOut).vram = s.vram := by
  unfold State.stepVblankOut; split <;> rfl
@[simp] theorem stepVblankOut_currentLine : (s.stepVblankOut).currentLine = s.currentLine := by
  unfold State.stepVblankOut; split <;> rfl
@[simp] theorem stepVblankOut_field : (s.stepVblankOut).field = s.field := by
  unfold State.stepVblankOut; split <;> rfl
@[simp] theorem stepVblankOut_vsync : (s.stepVblankOut).vsync = s.vsync := by
  unfold State.stepVblankOut; split <;> rfl
@[simp] theorem stepVblankOut_linePeriodNs : (s.stepVblankOut).linePeriodNs = s.linePeriodNs := by
  unfold State.stepVblankOut; split <;> rfl
@[simp] theorem stepVblankOut_timer : (s.stepVblankOut).timer = s.timer := by
  unfold State.stepVblankOut; split <;> rfl
@[simp] theorem stepVblankOut_gotStartrender : (s.stepVblankOut).gotStartrender = s.gotStartrender := by
  unfold State.stepVblankOut; split <;> rfl
@[simp] theorem stepVblankOut_vblankCount : (s.stepVblankOut).vblankCount = s.vblankCount := by
  unfold State.stepVblankOut; split <;> rfl
@[simp] theorem stepVblankOut_fbOut : (s.stepVblankOut).fbOut = s.fbOut := by
  unfold State.stepVblankOut; split <;> rfl
@[simp] theorem stepVblankOut_fault : (s.stepVblankOut).fault = s.fault := by
  unfold State.stepVblankOut; split <;> rfl
@[simp] theorem stepVblankOut_live : (s.stepVblankOut).live = s.live := by
  unfold State.stepVblankOut; split <;> rfl
@[simp] theorem stepVblankOut_reply : (s.stepVblankOut).reply = s.reply := by
  unfold State.stepVblankOut; split <;> rfl
@[simp] theorem stepVblankOut_inbox : (s.stepVblankOut).inbox = s.inbox := by
  unfold State.stepVblankOut; split <;> rfl
@[simp] theorem stepVblankOut_reg (k : Nat) : (s.stepVblankOut).reg k = s.reg k := by
  simp [State.reg]
@[simp] theorem stepVblankOut_get (f : FieldName) : (s.stepVblankOut).get f = s.get f := by
  simp [State.get]
@[simp] theorem stepVblankOut_flag (f : FieldName) : (s.stepVblankOut).flag f = s.flag f := by
  simp [State.flag]
@[simp] theorem stepVblankOut_word (n : RegName) : (s.stepVblankOut).word n = s.word n := by
  simp [State.word]
@[simp] theorem stepVblankOut_vramByte (k : Nat) : (s.stepVblankOut).vramByte k = s.vramByte k := by
  simp [State.vramByte]
@[simp] theorem stepVblankOut_accepts : (s.stepVblankOut).accepts = s.accepts := by
  simp [State.accepts]

/-! ### memoryWrite -/

@[simp] theorem memoryWrite_config (a : Nat) (b : Byte) : (s.memoryWrite a b).config = s.config := by
  unfold State.memoryWrite; split <;> rfl
@[simp] theorem memoryWrite_off (a : Nat) (b : Byte) (n : RegName) : (s.memoryWrite a b).off n = s.off n := by
  simp [State.off]
@[simp] theorem memoryWrite_now (a : Nat) (b : Byte) : (s.memoryWrite a b).now = s.now := by
  unfold State.memoryWrite; split <;> rfl
@[simp] theorem memoryWrite_regs (a : Nat) (b : Byte) : (s.memoryWrite a b).regs = s.regs := by
  unfold State.memoryWrite; split <;> rfl
@[simp] theorem memoryWrite_currentLine (a : Nat) (b : Byte) : (s.memoryWrite a b).currentLine = s.currentLine := by
  unfold State.memoryWrite; split <;> rfl
@[simp] theorem memoryWrite_field (a : Nat) (b : Byte) : (s.memoryWrite a b).field = s.field := by
  unfold State.memoryWrite; split <;> rfl
@[simp] theorem memoryWrite_vsync (a : Nat) (b : Byte) : (s.memoryWrite a b).vsync = s.vsync := by
  unfold State.memoryWrite; split <;> rfl
@[simp] theorem memoryWrite_linePeriodNs (a : Nat) (b : Byte) : (s.memoryWrite a b).linePeriodNs = s.linePeriodNs := by
  unfold State.memoryWrite; split <;> rfl
@[simp] theorem memoryWrite_timer (a : Nat) (b : Byte) : (s.memoryWrite a b).timer = s.timer := by
  unfold State.memoryWrite; split <;> rfl
@[simp] theorem memoryWrite_gotStartrender (a : Nat) (b : Byte) : (s.memoryWrite a b).gotStartrender = s.gotStartrender := by
  unfold State.memoryWrite; split <;> rfl
@[simp] theorem memoryWrite_vblankCount (a : Nat) (b : Byte) : (s.memoryWrite a b).vblankCount = s.vblankCount := by
  unfold State.memoryWrite; split <;> rfl
@[simp] theorem memoryWrite_fbOut (a : Nat) (b : Byte) : (s.memoryWrite a b).fbOut = s.fbOut := by
  unfold State.memoryWrite; split <;> rfl
@[simp] theorem memoryWrite_fault (a : Nat) (b : Byte) : (s.memoryWrite a b).fault = s.fault := by
  unfold State.memoryWrite; split <;> rfl
@[simp] theorem memoryWrite_live (a : Nat) (b : Byte) : (s.memoryWrite a b).live = s.live := by
  unfold State.memoryWrite; split <;> rfl
@[simp] theorem memoryWrite_trace (a : Nat) (b : Byte) : (s.memoryWrite a b).trace = s.trace := by
  unfold State.memoryWrite; split <;> rfl
@[simp] theorem memoryWrite_reply (a : Nat) (b : Byte) : (s.memoryWrite a b).reply = s.reply := by
  unfold State.memoryWrite; split <;> rfl
@[simp] theorem memoryWrite_inbox (a : Nat) (b : Byte) : (s.memoryWrite a b).inbox = s.inbox := by
  unfold State.memoryWrite; split <;> rfl
@[simp] theorem memoryWrite_reg (a : Nat) (b : Byte) (k : Nat) : (s.memoryWrite a b).reg k = s.reg k := by
  simp [State.reg]
@[simp] theorem memoryWrite_get (a : Nat) (b : Byte) (f : FieldName) : (s.memoryWrite a b).get f = s.get f := by
  simp [State.get]
@[simp] theorem memoryWrite_flag (a : Nat) (b : Byte) (f : FieldName) : (s.memoryWrite a b).flag f = s.flag f := by
  simp [State.flag]
@[simp] theorem memoryWrite_word (a : Nat) (b : Byte) (n : RegName) : (s.memoryWrite a b).word n = s.word n := by
  simp [State.word]
@[simp] theorem memoryWrite_accepts (a : Nat) (b : Byte) : (s.memoryWrite a b).accepts = s.accepts := by
  simp [State.accepts]

/-! ### What the case-splitting updates write -/

@[simp] theorem cancel_timer : s.cancel.timer = none := by
  unfold State.cancel; split <;> simp_all

theorem cancel_trace :
    s.cancel.trace = s.trace ++ (if s.timer = none then [] else [.timerCancel]) := by
  unfold State.cancel; split <;> simp_all

theorem emitIf_trace (p : Bool) (e : Event) :
    (s.emitIf p e).trace = s.trace ++ (if p then [e] else []) := by
  cases p <;> simp [State.emitIf]

theorem stepVblankIn_trace : s.stepVblankIn.trace =
    s.trace ++ (if s.currentLine = s.get .vblankInLineNumber then [.raise s.config.interrupts.vblankIn] else []) := by
  unfold State.stepVblankIn; split <;> simp

theorem stepVblankOut_trace : s.stepVblankOut.trace =
    s.trace ++ (if s.currentLine = s.get .vblankOutLineNumber then [.raise s.config.interrupts.vblankOut] else []) := by
  unfold State.stepVblankOut; split <;> simp

/-! ### Storage read back -/

theorem setReg_reg (o k : Nat) (w : Word) : (s.setReg o w).reg k = if o = k then w else s.reg k :=
  cellsRead_write 0 s.regs o k w

theorem store_reg (o k : Nat) (d m : Word) :
    (s.store o d m).reg k = if o = k then maskedWord s.config (s.reg o) d m else s.reg k :=
  setReg_reg s o k _

theorem setVramByte_vramByte (i k : Nat) (b : Byte) :
    (s.setVramByte i b).vramByte k = if i = k then b else s.vramByte k :=
  cellsRead_write unlistedByte s.vram i k b

theorem stepMirror_reg (k : Nat) : s.stepMirror.reg k =
    if s.off .spgStatus = k then mirrorWord s.config.regMap s.currentLine s.field s.vsync (s.word .spgStatus)
    else s.reg k :=
  setReg_reg s _ k _

theorem memoryWrite_vramByte (a k : Nat) (b : Byte) :
    (s.memoryWrite a b).vramByte k = if a = k ∧ a < vramSize then b else s.vramByte k := by
  unfold State.memoryWrite
  split
  · next h => simp [setVramByte_vramByte, h]
  · next h => simp [h]

/-- A field of another register is not changed by a register write. -/
theorem setReg_get_ne {o : Nat} {f : FieldName} (h : o ≠ s.off f.place.reg) (w : Word) :
    (s.setReg o w).get f = s.get f := by
  simp [State.get, setReg_reg, h]

/-- Two states with the same parameters and the same register file have the same fields. -/
theorem get_congr {t : State} (hc : s.config = t.config) (h : s.regs = t.regs) (f : FieldName) : s.get f = t.get f := by
  simp [State.get, State.off, State.reg, hc, h]

end Sys2Proof.Machine
end

