-- ==== Sys2Proof/Laws/Memory.lean ====
section
/-! SUPPORT. Laws of VRAM: the translator as arithmetic, byte order, and what reading and writing runs of bytes does. -/

namespace Sys2Proof.Machine

/-! ### Addresses -/

/-- `map32` as arithmetic: word number times 8, bank times 4, byte (R54, R55). -/
theorem map32_toNat (a : Word) :
    (map32 a).toNat = a.toNat / 4 % 2 ^ 20 * 8 + a.toNat / 2 ^ 22 % 2 * 4 + a.toNat % 4 := by
  unfold map32
  have h1 : (a.toNat >>> 0) % 2 ^ 2 < 2 ^ 2 := Nat.mod_lt _ (by decide)
  have h2 : (a.toNat >>> 22) % 2 ^ 1 < 2 ^ 1 := Nat.mod_lt _ (by decide)
  have h3 : (a.toNat >>> 2) % 2 ^ 20 < 2 ^ 20 := Nat.mod_lt _ (by decide)
  simp only [BitVec.toNat_setWidth, BitVec.toNat_append, BitVec.extractLsb'_toNat]
  rw [← Nat.shiftLeft_add_eq_or_of_lt h2, ← Nat.shiftLeft_add_eq_or_of_lt h1]
  simp only [Nat.shiftLeft_eq, Nat.shiftRight_eq_div_pow, Nat.reducePow, Nat.div_one] at *
  omega

theorem unmap32_toNat (a : Word) :
    (unmap32 a).toNat = a.toNat / 4 % 2 * 2 ^ 22 + a.toNat / 8 % 2 ^ 20 * 4 + a.toNat % 4 := by
  unfold unmap32
  have h1 : (a.toNat >>> 0) % 2 ^ 2 < 2 ^ 2 := Nat.mod_lt _ (by decide)
  have h2 : (a.toNat >>> 3) % 2 ^ 20 < 2 ^ 20 := Nat.mod_lt _ (by decide)
  have h3 : (a.toNat >>> 2) % 2 ^ 1 < 2 ^ 1 := Nat.mod_lt _ (by decide)
  simp only [BitVec.toNat_setWidth, BitVec.toNat_append, BitVec.extractLsb'_toNat]
  rw [← Nat.shiftLeft_add_eq_or_of_lt h2, ← Nat.shiftLeft_add_eq_or_of_lt h1]
  simp only [Nat.shiftLeft_eq, Nat.shiftRight_eq_div_pow, Nat.reducePow, Nat.div_one] at *
  omega

theorem wrapAddr_toNat (a : Word) : (wrapAddr a).toNat = a.toNat % vramSize := by
  unfold wrapAddr vramSize
  rw [BitVec.toNat_ofNat]
  omega

theorem vramIndex_v64 (a : Word) : vramIndex .v64 a = a.toNat % vramSize := wrapAddr_toNat a

theorem vramIndex_v32 (a : Word) :
    vramIndex .v32 a = a.toNat / 4 % 2 ^ 20 * 8 + a.toNat / 2 ^ 22 % 2 * 4 + a.toNat % 4 := by
  show (map32 (wrapAddr a)).toNat = _
  rw [map32_toNat, wrapAddr_toNat]
  simp only [vramSize, Nat.reducePow]
  omega

/-- Every access lands in the buffer. -/
theorem vramIndex_lt (v : View) (a : Word) : vramIndex v a < vramSize := by
  cases v
  · rw [vramIndex_v64]; exact Nat.mod_lt _ (by decide)
  · rw [vramIndex_v32]
    simp only [vramSize, Nat.reducePow]
    omega

/-- Two addresses of a view name one byte only if they agree modulo `VRAM_SIZE` (R56). -/
theorem vramIndex_inj {v : View} {a b : Word} (h : vramIndex v a = vramIndex v b) :
    a.toNat % vramSize = b.toNat % vramSize := by
  cases v
  · simpa [vramIndex_v64] using h
  · rw [vramIndex_v32, vramIndex_v32] at h
    simp only [vramSize, Nat.reducePow] at *
    have split (x : Nat) : x % 8388608 = x / 4194304 % 2 * 4194304 + x / 4 % 1048576 * 4 + x % 4 := by omega
    rw [split a.toNat, split b.toNat]
    have h1 := Nat.mod_lt (a.toNat / 4194304) (show 0 < 2 by decide)
    have h2 := Nat.mod_lt (b.toNat / 4194304) (show 0 < 2 by decide)
    have h3 := Nat.mod_lt a.toNat (show 0 < 4 by decide)
    have h4 := Nat.mod_lt b.toNat (show 0 < 4 by decide)
    generalize a.toNat / 4194304 % 2 = x1, b.toNat / 4194304 % 2 = x2 at *
    generalize a.toNat / 4 % 1048576 = y1, b.toNat / 4 % 1048576 = y2 at *
    generalize a.toNat % 4 = z1, b.toNat % 4 = z2 at *
    omega

/-- Addresses less than `VRAM_SIZE` apart name different bytes. -/
theorem vramIndex_add_ne (v : View) (a : Word) {i j : Nat} (hi : i < vramSize) (hj : j < vramSize) (h : i ≠ j) :
    vramIndex v (a + BitVec.ofNat 32 i) ≠ vramIndex v (a + BitVec.ofNat 32 j) := by
  intro he
  have := vramIndex_inj he
  rw [BitVec.toNat_add, BitVec.toNat_add, BitVec.toNat_ofNat, BitVec.toNat_ofNat] at this
  simp only [vramSize, Nat.reducePow] at *
  omega

theorem add_one_add (a : Word) (i : Nat) : a + 1 + BitVec.ofNat 32 i = a + BitVec.ofNat 32 (i + 1) := by
  rw [show (1 : Word) = BitVec.ofNat 32 1 from rfl]
  apply BitVec.eq_of_toNat_eq
  simp only [BitVec.toNat_add, BitVec.toNat_ofNat, Nat.reducePow]
  omega

/-! ### Byte order -/

@[simp] theorem leBytes_length (n v : Nat) : (leBytes n v).length = n := by
  induction n generalizing v with
  | zero => rfl
  | succ n ih => simp [leBytes, ih]

/-- Byte `i` of a number written out. -/
theorem leBytes_getElem (n v i : Nat) (h : i < (leBytes n v).length) :
    (leBytes n v)[i] = BitVec.ofNat 8 (v / 256 ^ i) := by
  induction n generalizing v i with
  | zero => simp [leBytes] at h
  | succ n ih =>
    cases i with
    | zero => simp [leBytes]
    | succ i =>
      simp only [leBytes, List.getElem_cons_succ]
      rw [ih, Nat.div_div_eq_div_mul, pow_succ']

theorem leValue_lt (l : List Byte) : leValue l < 256 ^ l.length := by
  induction l with
  | nil => simp [leValue]
  | cons b t ih =>
    have := b.isLt
    simp only [leValue, List.length_cons, pow_succ]
    omega

/-- Byte `i` of the number read back. -/
theorem leValue_byte (l : List Byte) (i : Nat) (h : i < l.length) : leValue l / 256 ^ i % 256 = l[i].toNat := by
  induction l generalizing i with
  | nil => simp at h
  | cons b t ih =>
    have hb := b.isLt
    cases i with
    | zero => simp only [leValue, pow_zero, Nat.div_one, List.getElem_cons_zero]; omega
    | succ i =>
      simp only [leValue, List.getElem_cons_succ]
      rw [pow_succ', ← Nat.div_div_eq_div_mul]
      have : (b.toNat + 256 * leValue t) / 256 = leValue t := by omega
      rw [this]
      exact ih i (by simpa using h)

/-- The bytes of a number read back as the number, cut to their width. -/
theorem leValue_leBytes (n v : Nat) : leValue (leBytes n v) = v % 256 ^ n := by
  induction n generalizing v with
  | zero => simp [leBytes, leValue, Nat.mod_one]
  | succ n ih =>
    rw [leBytes, leValue, ih, BitVec.toNat_ofNat, show (2 : Nat) ^ 8 = 256 from rfl, pow_succ', Nat.mod_mul]

/-! ### Runs of bytes -/

@[simp] theorem readBytes_length (s : State) (v : View) (n : Nat) (a : Word) : (s.readBytes v n a).length = n := by
  induction n generalizing a with
  | zero => rfl
  | succ n ih => simp [State.readBytes, ih]

theorem readBytes_getElem (s : State) (v : View) (n : Nat) (a : Word) (i : Nat) (h : i < (s.readBytes v n a).length) :
    (s.readBytes v n a)[i] = s.vramByte (vramIndex v (a + BitVec.ofNat 32 i)) := by
  induction n generalizing a i with
  | zero => simp [State.readBytes] at h
  | succ n ih =>
    cases i with
    | zero => simp [State.readBytes]
    | succ i =>
      simp only [State.readBytes, List.getElem_cons_succ]
      rw [ih, add_one_add]

/-- Reading depends on the bytes read alone. -/
theorem readBytes_congr {s t : State} {v : View} {n : Nat} {a : Word}
    (h : ∀ i < n, s.vramByte (vramIndex v (a + BitVec.ofNat 32 i)) = t.vramByte (vramIndex v (a + BitVec.ofNat 32 i))) :
    s.readBytes v n a = t.readBytes v n a := by
  apply List.ext_getElem (by simp)
  intro i h1 h2
  rw [readBytes_getElem, readBytes_getElem]
  exact h i (by simpa using h1)

theorem writeBytes_eq (v : View) (l : List Byte) (a : Word) (s : State) :
    State.writeBytes v l a s = { s with vram := (State.writeBytes v l a s).vram } := by
  induction l generalizing a s with
  | nil => rfl
  | cons b t ih => exact ih (a + 1) (s.setVramByte (vramIndex v a) b)

/-- A byte that is none of those written is unchanged. -/
theorem writeBytes_other (v : View) (l : List Byte) (a : Word) (s : State) (k : Nat)
    (h : ∀ i < l.length, vramIndex v (a + BitVec.ofNat 32 i) ≠ k) :
    (State.writeBytes v l a s).vramByte k = s.vramByte k := by
  induction l generalizing a s with
  | nil => rfl
  | cons b t ih =>
    rw [State.writeBytes, ih, setVramByte_vramByte, if_neg]
    · simpa using h 0 (by simp)
    · intro i hi
      rw [add_one_add]
      exact h (i + 1) (by simpa using hi)

/-- Each byte written is there afterwards; a run is shorter than the buffer, so no byte is written twice. -/
theorem writeBytes_at (v : View) (l : List Byte) (a : Word) (s : State) (hl : l.length ≤ vramSize) (i : Nat)
    (h : i < l.length) :
    (State.writeBytes v l a s).vramByte (vramIndex v (a + BitVec.ofNat 32 i)) = l[i] := by
  induction l generalizing a s i with
  | nil => simp at h
  | cons b t ih =>
    cases i with
    | zero =>
      rw [State.writeBytes, writeBytes_other, setVramByte_vramByte]
      · simp
      · intro j hj
        rw [add_one_add]
        refine vramIndex_add_ne v a ?_ ?_ (by omega)
        · simp at hl; omega
        · simp [vramSize]
    | succ i =>
      rw [State.writeBytes, ← add_one_add]
      rw [ih]
      · simp
      · simp at hl; omega
      · simpa using h

/-- A byte after a run of writes is either untouched or one of those written. -/
theorem writeBytes_cases (v : View) (l : List Byte) (a : Word) (s : State) (k : Nat) (hl : l.length ≤ vramSize) :
    (State.writeBytes v l a s).vramByte k = s.vramByte k ∨
      ∃ i, ∃ h : i < l.length, vramIndex v (a + BitVec.ofNat 32 i) = k ∧
        (State.writeBytes v l a s).vramByte k = l[i] := by
  by_cases hk : ∃ i, i < l.length ∧ vramIndex v (a + BitVec.ofNat 32 i) = k
  · obtain ⟨i, hi, rfl⟩ := hk
    exact Or.inr ⟨i, hi, rfl, writeBytes_at v l a s hl i hi⟩
  · left
    apply writeBytes_other
    intro i hi he
    exact hk ⟨i, hi, he⟩

/-! ### The canonical form -/

theorem setVramByte_wf {s : State} {i : Nat} (b : Byte) (h : Memory.wf s.vram = true) (hi : i < vramSize) :
    Memory.wf (s.setVramByte i b).vram = true :=
  cellsWrite_wf unlistedByte b h hi

theorem writeBytes_wf (v : View) (l : List Byte) (a : Word) {s : State} (h : Memory.wf s.vram = true) :
    Memory.wf (State.writeBytes v l a s).vram = true := by
  induction l generalizing a s with
  | nil => exact h
  | cons b t ih => exact ih (a + 1) (setVramByte_wf b h (vramIndex_lt v a))

theorem memoryWrite_wf {s : State} (a : Nat) (b : Byte) (h : Memory.wf s.vram = true) :
    Memory.wf (s.memoryWrite a b).vram = true := by
  unfold State.memoryWrite
  split
  · next ha => exact setVramByte_wf b h ha
  · exact h

theorem setReg_wf {s : State} {n o : Nat} (w : Word) (h : Regs.wf n s.regs = true) (ho : o < n) :
    Regs.wf n (s.setReg o w).regs = true :=
  cellsWrite_wf 0 w h ho

theorem resetRegs_wf (n : Nat) (l : List (Nat × Word)) : Regs.wf n (resetRegs n l) = true := by
  induction l with
  | nil => rfl
  | cons e t ih =>
    obtain ⟨o, w⟩ := e
    unfold resetRegs
    split
    · next h => exact cellsWrite_wf 0 w ih h
    · exact ih

/-- Reset leaves every offset of the register file at its reset word (R149). -/
theorem resetRegs_read (l : List (Nat × Word)) {n o : Nat} (ho : o < n) :
    cellsRead 0 (resetRegs n l) o = cellsRead 0 l o := by
  induction l with
  | nil => rfl
  | cons e t ih =>
    obtain ⟨k, w⟩ := e
    unfold resetRegs
    split
    · rw [cellsRead_write, cellsRead_cons, ih]
    · next h =>
      have : k ≠ o := by omega
      rw [cellsRead_cons, if_neg this, ih]

theorem reset_vram_wf : Memory.wf State.reset.vram = true := by decide

end Sys2Proof.Machine
end

