-- ==== Sys2Proof/Laws/RegisterMap.lean ====
section
/-! SUPPORT. What every register map gives: each register has an offset of its own inside the file, each field bits of
its word, and the fields the source fixes stand where it puts them. Later proofs cite these and unfold no map. -/

namespace Sys2Proof.Machine

theorem mem_regNames (r : RegName) : r ∈ regNames := by cases r <;> decide

theorem mem_fieldNames (f : FieldName) : f ∈ fieldNames := by cases f <;> decide

/-- The clauses of `legalMap` as propositions. -/
theorem RegisterMap.clauses (m : RegisterMap) :
    m.numRegs ≤ 2 ^ 30 ∧
    (∀ r, m.offset r < m.numRegs ∧ ∀ q, r = q ∨ m.offset r ≠ m.offset q) ∧
    (∀ f, (m.bits f).lo ≤ (m.bits f).hi ∧ (m.bits f).hi < 32) ∧
    m.bits .taReset = ⟨0, 0⟩ ∧ m.bits .listInitTrigger = ⟨31, 31⟩ ∧ m.bits .listContTrigger = ⟨31, 31⟩ ∧
    (m.bits .hblankIntMode).width = 2 ∧ (m.bits .vscalefactor).width = 16 := by
  have h := m.legal
  simp only [legalMap, Bool.and_eq_true, Bool.or_eq_true, List.all_eq_true, decide_eq_true_eq] at h
  obtain ⟨⟨⟨⟨⟨⟨⟨hn, hr⟩, hf⟩, h0⟩, h1⟩, h2⟩, h3⟩, h4⟩ := h
  exact ⟨hn, fun r => ⟨(hr r (mem_regNames r)).1, fun q => (hr r (mem_regNames r)).2 q (mem_regNames q)⟩,
    fun f => hf f (mem_fieldNames f), h0, h1, h2, h3, h4⟩

theorem RegisterMap.numRegs_le (m : RegisterMap) : m.numRegs ≤ 2 ^ 30 := m.clauses.1

/-- A named register is in the file. -/
theorem RegisterMap.offset_lt (m : RegisterMap) (r : RegName) : m.offset r < m.numRegs := (m.clauses.2.1 r).1

/-- No two named registers share an offset. -/
theorem RegisterMap.offset_inj (m : RegisterMap) {r q : RegName} : m.offset r = m.offset q ↔ r = q :=
  ⟨fun h => ((m.clauses.2.1 r).2 q).resolve_right (not_not.2 h), fun h => h ▸ rfl⟩

theorem RegisterMap.bits_legal (m : RegisterMap) (f : FieldName) : (m.bits f).lo ≤ (m.bits f).hi ∧ (m.bits f).hi < 32 :=
  m.clauses.2.2.1 f

theorem RegisterMap.hblankIntMode_width (m : RegisterMap) : (m.bits .hblankIntMode).width = 2 := m.clauses.2.2.2.2.2.2.1

theorem RegisterMap.vscalefactor_width (m : RegisterMap) : (m.bits .vscalefactor).width = 16 := m.clauses.2.2.2.2.2.2.2

theorem defaultMap_offset (r : RegName) : defaultMap.offset r = r.byteOffset / 4 := rfl

theorem defaultMap_bits (f : FieldName) : defaultMap.bits f = ⟨f.place.hi, f.place.lo⟩ := rfl

theorem off_lt (s : State) (r : RegName) : s.off r < s.config.regMap.numRegs := s.config.regMap.offset_lt r

@[simp] theorem off_inj (s : State) {r q : RegName} : s.off r = s.off q ↔ r = q := s.config.regMap.offset_inj

/-- A field's value fits its width. -/
theorem fieldOf_lt (r : BitRange) (w : Word) : fieldOf r w < 2 ^ r.width := BitVec.isLt _

theorem get_lt (s : State) (f : FieldName) : s.get f < 2 ^ (s.config.regMap.bits f).width := fieldOf_lt _ _

/-- The mode has two bits in every map (R24). -/
theorem hblankIntMode_lt (s : State) : s.get .hblankIntMode < 4 := by
  have h := get_lt s .hblankIntMode
  rwa [s.config.regMap.hblankIntMode_width] at h

end Sys2Proof.Machine
end

