-- ==== Sys2Proof/Laws/Ops.lean ====
section
/-! SUPPORT. For each shared operation, one lemma that says everything it can do; later proofs cite these and unfold
nothing. -/

namespace Sys2Proof.Machine

/-! ### Flows and the outcome classes (R129, R130) -/

@[simp] theorem andThen_on (s : State) (k : State → Flow) : (Flow.on s).andThen k = k s := rfl
@[simp] theorem andThen_halted (s : State) (k : State → Flow) : (Flow.halted s).andThen k = .halted s := rfl
@[simp] theorem close_on (s : State) : (Flow.on s).close = s := rfl
@[simp] theorem close_halted (s : State) : (Flow.halted s).close = s.answer .faulted := rfl
@[simp] theorem raise_eq (s : State) (f : BlockFault) : s.raise f = .halted { s with fault := some f } := rfl

theorem andThen_eq_on {f : Flow} {k : State → Flow} {t : State} :
    f.andThen k = .on t ↔ ∃ s, f = .on s ∧ k s = .on t := by
  cases f <;> simp

theorem andThen_eq_halted {f : Flow} {k : State → Flow} {t : State} :
    f.andThen k = .halted t ↔ f = .halted t ∨ ∃ s, f = .on s ∧ k s = .halted t := by
  cases f <;> simp

/-- A property both of running and of stopped states. -/
def Flow.All (P : State → Prop) : Flow → Prop
  | .on s => P s
  | .halted s => P s

@[simp] theorem all_on (P : State → Prop) (s : State) : (Flow.on s).All P ↔ P s := Iff.rfl
@[simp] theorem all_halted (P : State → Prop) (s : State) : (Flow.halted s).All P ↔ P s := Iff.rfl

theorem all_andThen {P : State → Prop} {f : Flow} {k : State → Flow} (hf : f.All P)
    (hk : ∀ s, f = .on s → P s → (k s).All P) : (f.andThen k).All P := by
  cases f with
  | on s => exact hk s rfl hf
  | halted s => exact hf

/-- What an operation can end in: its body's result if it is accepted, else the unchanged block (R129). -/
theorem runIf_eq (p : Bool) (body : State → Flow) (s : State) :
    runIf p body s = .next (if p then (body s).close else s.answer .noStep) := by
  cases p <;> rfl

theorem runIf_true (body : State → Flow) (s : State) : runIf true body s = .next (body s).close := rfl

theorem runIf_false (body : State → Flow) (s : State) : runIf false body s = .next (s.answer .noStep) := rfl

theorem accepts_iff (s : State) : s.accepts = true ↔ s.fault = none ∧ s.live = true := by
  simp [State.accepts]

theorem accepts_of {s : State} (hf : s.fault = none) (hl : s.live = true) : s.accepts = true :=
  (accepts_iff s).2 ⟨hf, hl⟩

/-! ### Range checks (R57, R58) -/

theorem addrAllowed_iff (c : Config) (a : Word) :
    addrAllowed c a = true ↔ a.toNat < vramSize ∨ c.oorPolicy = .wrap := by
  simp [addrAllowed]

theorem add_zero_word (a : Word) : a + BitVec.ofNat 32 0 = a := by simp

/-- Nothing is refused exactly when each of the addresses may be accessed. -/
theorem firstRefused_none {c : Config} {n : Nat} {a : Word} :
    firstRefused c n a = none ↔ ∀ i < n, addrAllowed c (a + BitVec.ofNat 32 i) = true := by
  induction n generalizing a with
  | zero => simp [firstRefused]
  | succ n ih =>
    rw [firstRefused]
    constructor
    · intro h i hi
      split at h
      · next h0 =>
        cases i with
        | zero => simpa using h0
        | succ i => rw [← add_one_add]; exact ih.1 h i (by omega)
      · simp at h
    · intro h
      have h0 : addrAllowed c a = true := by simpa using h 0 (by omega)
      rw [if_pos h0]
      exact ih.2 fun i hi => by rw [add_one_add]; exact h (i + 1) (by omega)

/-- The address reported is the first that may not be accessed. -/
theorem firstRefused_some {c : Config} {n : Nat} {a x : Word} (h : firstRefused c n a = some x) :
    ∃ i < n, x = a + BitVec.ofNat 32 i ∧ addrAllowed c x = false ∧
      ∀ j < i, addrAllowed c (a + BitVec.ofNat 32 j) = true := by
  induction n generalizing a with
  | zero => simp [firstRefused] at h
  | succ n ih =>
    rw [firstRefused] at h
    split at h
    · next h0 =>
      obtain ⟨i, hi, hx, hn, hj⟩ := ih h
      refine ⟨i + 1, by omega, by rw [hx, add_one_add], hn, fun j hji => ?_⟩
      cases j with
      | zero => simpa using h0
      | succ j => rw [← add_one_add]; exact hj j (by omega)
    · next h0 =>
      obtain rfl := Option.some.inj h
      exact ⟨0, by omega, by simp, by simpa using h0, fun j hj => by omega⟩

/-! ### The block's own accesses (R58) -/

theorem linRead_ok {s : State} {n : Nat} {a : Word} {bs : List Byte} (h : s.linRead n a = .ok bs) :
    firstRefused s.config n a = none ∧ bs = s.readBytes .v32 n a := by
  unfold State.linRead at h
  split at h
  · simp at h
  · next h' => exact ⟨h', by simpa using h.symm⟩

theorem linRead_of_allowed {s : State} {n : Nat} {a : Word} (h : firstRefused s.config n a = none) :
    s.linRead n a = .ok (s.readBytes .v32 n a) := by
  simp [State.linRead, h]

/-- `LinWrite32` either stores its four bytes and changes nothing else, or is refused. -/
theorem linWrite32_cases (s : State) (a v : Word) :
    (firstRefused s.config 4 a = none ∧
      s.linWrite32 a v = .ok { s with vram := (State.writeBytes .v32 (leBytes 4 v.toNat) a s).vram }) ∨
    (∃ x, firstRefused s.config 4 a = some x ∧ s.linWrite32 a v = .error (.vramRange x)) := by
  unfold State.linWrite32
  split
  · next x h => exact Or.inr ⟨x, h, rfl⟩
  · next h => exact Or.inl ⟨h, by rw [← writeBytes_eq]⟩

theorem linWrite32_wf {s t : State} {a v : Word} (h : s.linWrite32 a v = .ok t) (hw : Memory.wf s.vram = true) :
    Memory.wf t.vram = true := by
  unfold State.linWrite32 at h
  split at h
  · simp at h
  · cases h; exact writeBytes_wf _ _ _ hw

/-! ### Guest accesses (R92 to R95, R134) -/

theorem guestRead_cases (v : View) (n : Nat) (a : Word) (s : State) :
    (∃ f, guestFault s.config n a = some f ∧ guestRead v n a s = .halted { s with fault := some f }) ∨
    (guestFault s.config n a = none ∧
      guestRead v n a s = .on (s.answer (.value n (BitVec.ofNat 64 (leValue (s.readBytes v n a)))))) := by
  unfold guestRead
  split
  · next f h => exact Or.inl ⟨f, h, rfl⟩
  · next h => exact Or.inr ⟨h, rfl⟩

theorem guestWrite_cases (v : View) (n : Nat) (a : Word) (data : Nat) (s : State) :
    (∃ f, guestFault s.config n a = some f ∧ guestWrite v n a data s = .halted { s with fault := some f }) ∨
    (guestFault s.config n a = none ∧
      guestWrite v n a data s =
        .on ({ s with vram := (State.writeBytes v (leBytes n data) a s).vram, reply := .done })) := by
  unfold guestWrite
  split
  · next f h => exact Or.inl ⟨f, h, rfl⟩
  · next h =>
    refine Or.inr ⟨h, ?_⟩
    rw [writeBytes_eq]
    rfl

/-- An aligned access in range, or under `wrap`, has nothing wrong with it (R57, R62). -/
theorem guestFault_none {c : Config} {n : Nat} {a : Word} (h : a.toNat % n = 0)
    (hr : a.toNat + n ≤ 0x800000 ∨ c.oorPolicy = .wrap) : guestFault c n a = none := by
  unfold guestFault
  rw [if_neg (by simp [h]), if_neg]
  simp only [vramSize]
  rintro ⟨h1, h2⟩
  rcases hr with hr | hr
  · omega
  · simp [hr] at h2

/-- Byte `j` of the value of a run of at most eight bytes; beyond the run it is zero (R59). -/
theorem leValue_extract (l : List Byte) (h : l.length ≤ 8) (j : Nat) :
    (BitVec.ofNat 64 (leValue l)).extractLsb' (8 * j) 8 = if h : j < l.length then l[j] else 0 := by
  apply BitVec.eq_of_toNat_eq
  have hlt : leValue l < 2 ^ 64 := by
    have h1 := leValue_lt l
    have h2 : (256 : Nat) ^ l.length ≤ 256 ^ 8 := Nat.pow_le_pow_right (by decide) h
    omega
  rw [BitVec.extractLsb'_toNat, BitVec.toNat_ofNat, Nat.mod_eq_of_lt hlt, Nat.shiftRight_eq_div_pow, pow_mul,
    show (2 : Nat) ^ 8 = 256 from rfl]
  split
  · next hj => rw [leValue_byte l j hj]
  · next hj =>
    have h1 := leValue_lt l
    have h2 : (256 : Nat) ^ l.length ≤ 256 ^ j := Nat.pow_le_pow_right (by decide) (by omega)
    rw [Nat.div_eq_of_lt (by omega)]
    rfl

/-! ### Marking (R115) -/

/-- Marking changes VRAM alone, and stops at the first word that is out of range. -/
theorem markWords_cases (l : List Word) (s : State) :
    (∃ m, s.markWords l = .on { s with vram := m } ∧ (Memory.wf s.vram = true → Memory.wf m = true)) ∨
    (∃ m x, s.markWords l = .halted { s with vram := m, fault := some (.vramRange x) } ∧
      (Memory.wf s.vram = true → Memory.wf m = true)) := by
  induction l generalizing s with
  | nil => exact Or.inl ⟨s.vram, rfl, id⟩
  | cons a t ih =>
    rw [State.markWords]
    rcases linWrite32_cases s a s.config.fbCookie with ⟨-, h⟩ | ⟨x, -, h⟩
    · have hw := linWrite32_wf h
      rw [h]
      rcases ih { s with vram := (State.writeBytes .v32 (leBytes 4 s.config.fbCookie.toNat) a s).vram } with
        ⟨m, hm, hmw⟩ | ⟨m, x, hm, hmw⟩
      · exact Or.inl ⟨m, hm, fun h => hmw (hw h)⟩
      · exact Or.inr ⟨m, x, hm, fun h => hmw (hw h)⟩
    · rw [h]
      exact Or.inr ⟨s.vram, x, rfl, id⟩

/-! ### Reconfiguration (R100) -/

/-- `reconfigure()` latches the period, cancels an outstanding timer and arms one a full period from now. -/
theorem reconfigure_eq (s : State) :
    s.reconfigure = { s with
      linePeriodNs := nsPerSec / s.lineHz
      timer := some (s.now + nsPerSec / s.lineHz)
      trace := s.trace ++ (if s.timer = none then [] else [.timerCancel]) ++
        [.timerArm (s.now + nsPerSec / s.lineHz)] } := by
  unfold State.reconfigure State.cancel
  split
  · next h => simp_all [State.schedule, State.emit, State.latchPeriod]
  · next h => simp_all [State.schedule, State.emit, State.latchPeriod]

theorem cancel_eq (s : State) : s.cancel = { s with
    timer := none, trace := s.trace ++ (if s.timer = none then [] else [.timerCancel]) } := by
  unfold State.cancel
  split
  · next h => simp [← h]
  · next h => simp_all [State.emit]

/-- The line rate is never zero and never above 10^9, so the period is never zero (R98, R161). -/
theorem period_pos (s : State) : 0 < nsPerSec / s.lineHz := by
  have hc := s.config.clockInRange
  have hh := get_lt s .hcount
  unfold State.lineHz State.pixelHz nsPerSec
  generalize s.config.pixelClockBaseHz = hz at *
  generalize 2 ^ (s.config.regMap.bits .hcount).width = w at *
  generalize s.get .hcount = h at *
  have h1 : 1 ≤ hz / (h + 1) := (Nat.one_le_div_iff (by omega)).2 (by omega)
  have h2 : hz / (h + 1) ≤ hz := Nat.div_le_self _ _
  have h3 : hz * 2 / (h + 1) ≤ hz * 2 := Nat.div_le_self _ _
  have h4 : 1 ≤ hz * 2 / (h + 1) := (Nat.one_le_div_iff (by omega)).2 (by omega)
  have key : ∀ x, 1 ≤ x → x ≤ 1000000000 → 0 < 1000000000 / x := fun x hx hx' =>
    Nat.div_pos hx' (by omega)
  apply key <;> split <;> split <;> (try simp only [Nat.mul_one]) <;> omega

/-! ### The tick (R101 to R111) -/

/-- The mode decides: an interrupt, none, or `HBLANK_MODE` (R103). -/
theorem stepHblank_cases (s : State) :
    (s.get .hblankIntMode = 0 ∧ s.currentLine = s.get .lineCompVal ∧ s.stepHblank = .on (s.emit (.raise s.config.interrupts.hblank))) ∨
    (s.get .hblankIntMode = 0 ∧ s.currentLine ≠ s.get .lineCompVal ∧ s.stepHblank = .on s) ∨
    (s.get .hblankIntMode = 2 ∧ s.stepHblank = .on (s.emit (.raise s.config.interrupts.hblank))) ∨
    (s.get .hblankIntMode ≠ 0 ∧ s.get .hblankIntMode ≠ 2 ∧
      s.stepHblank = .halted { s with fault := some (.hblankMode (s.get .hblankIntMode)) }) := by
  unfold State.stepHblank
  by_cases h0 : s.get .hblankIntMode = 0
  · by_cases hl : s.currentLine = s.get .lineCompVal <;> simp [h0, hl]
  · by_cases h2 : s.get .hblankIntMode = 2 <;> simp [h0, h2]

/-- Detection pushes one frame, or changes nothing, or stops at a fault (R117). -/
theorem detectAndExtract_cases (s : State) :
    (∃ f, s.dirty = .error f ∧ s.detectAndExtract = .halted { s with fault := some f }) ∨
    (s.dirty = .ok false ∧ s.detectAndExtract = .on s) ∨
    (s.dirty = .ok true ∧ s.get .fbEnable = 0 ∧ s.detectAndExtract = .on s) ∨
    (∃ f, s.dirty = .ok true ∧ s.get .fbEnable ≠ 0 ∧ s.readFrame = .error f ∧
      s.detectAndExtract = .halted { s with fault := some f }) ∨
    (∃ fr, s.dirty = .ok true ∧ s.get .fbEnable ≠ 0 ∧ s.readFrame = .ok fr ∧
      s.detectAndExtract = .on (s.pushFrame fr)) := by
  unfold State.detectAndExtract
  cases hd : s.dirty with
  | error f => simp
  | ok b =>
    cases b with
    | false => simp
    | true =>
      by_cases he : s.get .fbEnable = 0
      · simp [he]
      · unfold State.extract
        cases hr : s.readFrame <;> simp [he]

/-- The vblank-in event (R108): the flag cleared without extraction, or detection; then the field and the notification. -/
theorem vblankInEvent_cases (s : State) :
    (s.gotStartrender = true ∧
      s.vblankInEvent = .on (State.toggleField { s.countVblank with gotStartrender := false })) ∨
    (s.gotStartrender = false ∧
      s.vblankInEvent = s.countVblank.detectAndExtract.andThen fun t => .on t.toggleField) := by
  unfold State.vblankInEvent
  cases s.gotStartrender <;> simp

/-- At most one edge event (R107). -/
theorem stepEdges_cases (prev : Bool) (s : State) :
    (prev = false ∧ s.vsync = true ∧ s.stepEdges prev = s.vblankInEvent) ∨
    (prev = true ∧ s.vsync = false ∧ s.stepEdges prev = .on s.vblankOutEvent) ∨
    (prev = s.vsync ∧ s.stepEdges prev = .on s) := by
  unfold State.stepEdges
  cases prev <;> cases h : s.vsync <;> simp

end Sys2Proof.Machine
end

