-- ==== Sys2Proof/Laws/Extraction.lean ====
section
/-! SUPPORT. Laws of marking, the dirty test and extraction (43_framebuffer.md): what a marked VRAM holds, what a row and
a frame hold, and that reading depends on the parameters, the registers and VRAM alone. -/

namespace Sys2Proof.Machine

/-! ### Marking (R58, R115) -/

/-- Byte `i` of a word written out. -/
theorem leBytes_word (w : Word) (i : Nat) (h : i < (leBytes 4 w.toNat).length) :
    (leBytes 4 w.toNat)[i] = w.extractLsb' (8 * i) 8 := by
  rw [leBytes_getElem]
  apply BitVec.eq_of_toNat_eq
  simp [BitVec.extractLsb'_toNat, Nat.shiftRight_eq_div_pow, pow_mul]

/-- The reported address is the first of the run that may not be accessed: the converse of `firstRefused_some`. -/
theorem firstRefused_at {c : Config} {n i : Nat} {a : Word} (hi : i < n)
    (hx : addrAllowed c (a + BitVec.ofNat 32 i) = false)
    (hj : ∀ j < i, addrAllowed c (a + BitVec.ofNat 32 j) = true) :
    firstRefused c n a = some (a + BitVec.ofNat 32 i) := by
  induction n generalizing a i with
  | zero => omega
  | succ n ih =>
    rw [firstRefused]
    cases i with
    | zero => simp at hx; simp [hx]
    | succ i =>
      have h0 : addrAllowed c a = true := by simpa using hj 0 (by omega)
      rw [if_pos h0, ih (i := i) (by omega) (by rwa [add_one_add])
        (fun j hj' => by rw [add_one_add]; exact hj (j + 1) (by omega)), add_one_add]

/-- A `LinWrite32` that is not refused puts the word's four bytes there and changes no other byte. -/
theorem linWrite32_ok {s : State} {a v : Word} (h : firstRefused s.config 4 a = none) :
    ∃ m, s.linWrite32 a v = .ok { s with vram := m } ∧
      (∀ i < 4, ({ s with vram := m } : State).vramByte (vramIndex .v32 (a + BitVec.ofNat 32 i)) =
        v.extractLsb' (8 * i) 8) ∧
      ∀ k, (∀ i < 4, vramIndex .v32 (a + BitVec.ofNat 32 i) ≠ k) →
        ({ s with vram := m } : State).vramByte k = s.vramByte k := by
  refine ⟨(State.writeBytes .v32 (leBytes 4 v.toNat) a s).vram, ?_, ?_, ?_⟩
  · unfold State.linWrite32
    rw [h, ← writeBytes_eq]
  · intro i hi
    rw [← writeBytes_eq, writeBytes_at _ _ _ _ (by simp [vramSize]) i (by simpa using hi), leBytes_word]
  · intro k hk
    rw [← writeBytes_eq]
    exact writeBytes_other _ _ _ _ _ (by simpa using hk)

/-- Marking a list is marking its parts in turn. -/
theorem markWords_append (l m : List Word) (s : State) :
    s.markWords (l ++ m) = (s.markWords l).andThen (State.markWords m) := by
  induction l generalizing s with
  | nil => rfl
  | cons a t ih =>
    simp only [List.cons_append, State.markWords]
    split
    · rfl
    · exact ih _

/-- Where each word may be accessed all are marked: a byte of a marked word holds a byte of the sentinel, any other byte
is as it was. -/
theorem markWords_on {l : List Word} {s : State}
    (h : ∀ a ∈ l, ∀ i < 4, addrAllowed s.config (a + BitVec.ofNat 32 i) = true) :
    ∃ m, s.markWords l = .on { s with vram := m } ∧
      ∀ k, ((∀ a ∈ l, ∀ i < 4, vramIndex .v32 (a + BitVec.ofNat 32 i) ≠ k) →
          ({ s with vram := m } : State).vramByte k = s.vramByte k) ∧
        ((∃ a ∈ l, ∃ i < 4, vramIndex .v32 (a + BitVec.ofNat 32 i) = k) →
          ∃ a ∈ l, ∃ i < 4, vramIndex .v32 (a + BitVec.ofNat 32 i) = k ∧
            ({ s with vram := m } : State).vramByte k = s.config.fbCookie.extractLsb' (8 * i) 8) := by
  induction l generalizing s with
  | nil => exact ⟨s.vram, rfl, fun k => ⟨fun _ => rfl, by simp⟩⟩
  | cons a t ih =>
    obtain ⟨m, hm, hat, hother⟩ := linWrite32_ok (v := s.config.fbCookie) (firstRefused_none.2 (h a (by simp)))
    obtain ⟨m', hm', hk⟩ := ih (s := { s with vram := m }) fun b hb => h b (by simp [hb])
    refine ⟨m', by rw [State.markWords, hm]; exact hm', fun k => ?_⟩
    by_cases ht : ∃ b ∈ t, ∃ i < 4, vramIndex .v32 (b + BitVec.ofNat 32 i) = k
    · constructor
      · intro hn
        obtain ⟨b, hb, i, hi, e⟩ := ht
        exact absurd e (hn b (by simp [hb]) i hi)
      · intro _
        obtain ⟨b, hb, i, hi, e, hv⟩ := (hk k).2 ht
        exact ⟨b, by simp [hb], i, hi, e, hv⟩
    · have hsame := (hk k).1 fun b hb i hi e => ht ⟨b, hb, i, hi, e⟩
      constructor
      · intro hn
        rw [hsame]
        exact hother k (hn a (by simp))
      · rintro ⟨b, hb, i, hi, e⟩
        rcases List.mem_cons.1 hb with rfl | hb
        · exact ⟨b, by simp, i, hi, e, by subst e; rw [hsame]; exact hat i hi⟩
        · exact absurd ⟨b, hb, i, hi, e⟩ ht

/-! ### What reading depends on -/

theorem readBytes_vram {s t : State} (h : s.vram = t.vram) (v : View) (n : Nat) (a : Word) :
    s.readBytes v n a = t.readBytes v n a :=
  readBytes_congr fun _ _ => by simp [State.vramByte, h]

theorem linRead_congr {s t : State} (hc : s.config = t.config) (hv : s.vram = t.vram) : s.linRead = t.linRead := by
  funext n a
  simp [State.linRead, hc, readBytes_vram hv]

theorem dirty_congr {s t : State} (hc : s.config = t.config) (hr : s.regs = t.regs) (hv : s.vram = t.vram) :
    s.dirty = t.dirty := by
  unfold State.dirty State.linRead32 State.word State.off State.reg
  rw [linRead_congr hc hv, hc, hr]

theorem convertPixel_congr {s t : State} (hc : s.config = t.config) (hv : s.vram = t.vram) :
    s.convertPixel = t.convertPixel := by
  funext d a
  unfold State.convertPixel
  rw [linRead_congr hc hv]

theorem convertRow_congr {s t : State} (hc : s.config = t.config) (hv : s.vram = t.vram) (d b n : Nat) (a : Word) :
    s.convertRow d b n a = t.convertRow d b n a := by
  induction n generalizing a with
  | zero => rfl
  | succ n ih => simp only [State.convertRow, ih, convertPixel_congr hc hv]

theorem convertRows_congr {s t : State} (hc : s.config = t.config) (hv : s.vram = t.vram) (d b w : Nat) (st : Word)
    (il : Bool) (n : Nat) (x y : Word) : s.convertRows d b w st il n x y = t.convertRows d b w st il n x y := by
  induction n generalizing x y with
  | zero => rfl
  | succ n ih => simp only [State.convertRows, ih, convertRow_congr hc hv]

/-- Extraction reads the parameters, the registers and VRAM, and nothing else. -/
theorem readFrame_congr {s t : State} (hc : s.config = t.config) (hr : s.regs = t.regs) (hv : s.vram = t.vram) :
    s.readFrame = t.readFrame := by
  unfold State.readFrame State.fbSize State.fieldCount State.flag State.lineMod State.word State.off
  simp only [get_congr s hc hr, convertRows_congr hc hv, State.reg, hc, hr]

/-! ### Rows and frames (R121) -/

theorem pixelRgb_length {depth : Nat} {bs : List Byte} (h : bs.length = pixelBytesRead depth) :
    (pixelRgb depth bs).length = 3 := by
  unfold pixelRgb pixelBytesRead at *
  split
  · rfl
  · split
    · rfl
    · simp_all

theorem convertPixel_length {s : State} {depth : Nat} {a : Word} {px : List Byte}
    (h : s.convertPixel depth a = .ok px) : px.length = 3 := by
  unfold State.convertPixel at h
  split at h
  · cases h
  · next bs hb =>
    cases h
    exact pixelRgb_length (by rw [(linRead_ok hb).2]; simp)

theorem pixel_addr (a : Word) (bpp x : Nat) :
    a + BitVec.ofNat 32 bpp + BitVec.ofNat 32 (x * bpp) = a + BitVec.ofNat 32 ((x + 1) * bpp) := by
  rw [BitVec.add_assoc]
  congr 1
  apply BitVec.eq_of_toNat_eq
  simp [Nat.succ_mul, Nat.add_comm]

/-- A row that is read holds its pixels in order, three bytes each. -/
theorem convertRow_ok {s : State} {depth bpp n : Nat} {a : Word} {row : List Byte}
    (h : s.convertRow depth bpp n a = .ok row) :
    row.length = 3 * n ∧
      ∀ x < n, s.convertPixel depth (a + BitVec.ofNat 32 (x * bpp)) = .ok ((row.drop (3 * x)).take 3) := by
  induction n generalizing a row with
  | zero => cases h; simp
  | succ n ih =>
    rw [State.convertRow] at h
    split at h
    · cases h
    · next px hp =>
      split at h
      · cases h
      · next rest hr =>
        cases h
        obtain ⟨hl, hx⟩ := ih hr
        have h3 := convertPixel_length hp
        refine ⟨by simp [hl, h3]; omega, fun x hx' => ?_⟩
        cases x with
        | zero => simp [hp, ← h3]
        | succ x => rw [show 3 * (x + 1) = px.length + 3 * x by omega, List.drop_length_add_append, ← hx x (by omega),
            pixel_addr]

theorem row_addr (a stride : Word) (k : Nat) :
    a + stride + BitVec.ofNat 32 k * stride = a + BitVec.ofNat 32 (k + 1) * stride := by
  have h : BitVec.ofNat 32 (k + 1) = BitVec.ofNat 32 k + 1 := by
    apply BitVec.eq_of_toNat_eq
    simp
  rw [BitVec.add_assoc, h, BitVec.add_mul]
  simp [BitVec.add_comm]

/-- The address of a row, counted from the row before it: the fields change places in an interlaced frame. -/
theorem rowAddr_succ (il : Bool) (cur other stride : Word) (y : Nat) :
    (if (y + 1) % (if il then 2 else 1) = 0 then cur else other) +
        BitVec.ofNat 32 ((y + 1) / (if il then 2 else 1)) * stride =
      (if y % (if il then 2 else 1) = 0 then (if il then other else cur + stride)
        else (if il then cur + stride else other)) + BitVec.ofNat 32 (y / (if il then 2 else 1)) * stride := by
  cases il with
  | false => simp [Nat.mod_one, row_addr]
  | true =>
    simp only [if_true]
    rcases Nat.mod_two_eq_zero_or_one y with e | e
    · rw [if_neg (by omega), if_pos (by omega), show (y + 1) / 2 = y / 2 by omega]
    · rw [if_pos (by omega), if_neg (by omega), show (y + 1) / 2 = y / 2 + 1 by omega, row_addr]

/-- The rows of a frame: the first, then the others from the addresses `rowAddr_succ` counts from. -/
theorem convertRows_succ (s : State) (depth bpp width n : Nat) (stride cur other : Word) (il : Bool) :
    s.convertRows depth bpp width stride il (n + 1) cur other =
      match s.convertRow depth bpp width cur with
      | .error f => .error f
      | .ok row =>
        match s.convertRows depth bpp width stride il n (if il then other else cur + stride)
          (if il then cur + stride else other) with
        | .error f => .error f
        | .ok rest => .ok (row ++ rest) := by
  cases il <;> rfl

/-- Rows that are read are those of the two fields in turn, each field's address advancing on its own rows. -/
theorem convertRows_ok {s : State} {depth bpp width n : Nat} {stride cur other : Word} {il : Bool} {out : List Byte}
    (h : s.convertRows depth bpp width stride il n cur other = .ok out) :
    out.length = 3 * width * n ∧ ∀ y < n,
      s.convertRow depth bpp width ((if y % (if il then 2 else 1) = 0 then cur else other) +
        BitVec.ofNat 32 (y / (if il then 2 else 1)) * stride) =
        .ok ((out.drop (3 * width * y)).take (3 * width)) := by
  induction n generalizing cur other out with
  | zero => cases h; simp
  | succ n ih =>
    rw [convertRows_succ] at h
    split at h
    · cases h
    · next row hr =>
      split at h
      · cases h
      · next rest hrest =>
        cases h
        have h3 := (convertRow_ok hr).1
        have hd : ∀ y, 3 * width * (y + 1) = row.length + 3 * width * y := fun y => by rw [h3]; ring
        obtain ⟨hl, hx⟩ := ih hrest
        refine ⟨by simp [h3, hl]; ring, fun y hy => ?_⟩
        cases y with
        | zero => simp [hr, ← h3]
        | succ y => rw [hd, List.drop_length_add_append, ← hx y (by omega), rowAddr_succ]

/-! ### Where reading succeeds, and the first byte that stops it (R57, R131, R134) -/

/-- A pixel is read where each of its bytes may be accessed. -/
theorem convertPixel_of_allowed {s : State} {depth : Nat} {a : Word}
    (h : ∀ i < pixelBytesRead depth, addrAllowed s.config (a + BitVec.ofNat 32 i) = true) :
    ∃ px, s.convertPixel depth a = .ok px := by
  unfold State.convertPixel
  rw [linRead_of_allowed (firstRefused_none.2 h)]
  exact ⟨_, rfl⟩

/-- It stops at the first of its bytes that may not be. -/
theorem convertPixel_refused {s : State} {depth i : Nat} {a : Word} (hi : i < pixelBytesRead depth)
    (hx : addrAllowed s.config (a + BitVec.ofNat 32 i) = false)
    (hj : ∀ j < i, addrAllowed s.config (a + BitVec.ofNat 32 j) = true) :
    s.convertPixel depth a = .error (.vramRange (a + BitVec.ofNat 32 i)) := by
  unfold State.convertPixel State.linRead
  rw [firstRefused_at hi hx hj]

/-- The dirty test stops at the first of its word's bytes that may not be accessed. -/
theorem dirty_refused {s : State} {i : Nat} (hi : i < 4)
    (hx : addrAllowed s.config (s.word .fbRSof1 + BitVec.ofNat 32 i) = false)
    (hj : ∀ j < i, addrAllowed s.config (s.word .fbRSof1 + BitVec.ofNat 32 j) = true) :
    s.dirty = .error (.vramRange (s.word .fbRSof1 + BitVec.ofNat 32 i)) := by
  unfold State.dirty State.linRead32 State.linRead
  rw [firstRefused_at hi hx hj]

/-- A row is read where each of its pixels is. -/
theorem convertRow_of_pixels {s : State} {depth bpp n : Nat} {a : Word}
    (h : ∀ x < n, ∃ px, s.convertPixel depth (a + BitVec.ofNat 32 (x * bpp)) = .ok px) :
    ∃ row, s.convertRow depth bpp n a = .ok row := by
  induction n generalizing a with
  | zero => exact ⟨[], rfl⟩
  | succ n ih =>
    obtain ⟨px, hp⟩ := h 0 (by omega)
    obtain ⟨row, hr⟩ := ih (a := a + BitVec.ofNat 32 bpp) fun x hx => by rw [pixel_addr]; exact h (x + 1) (by omega)
    simp only [Nat.zero_mul, add_zero_word] at hp
    exact ⟨px ++ row, by rw [State.convertRow, hp]; simp only [hr]⟩

/-- It stops at the fault of the first pixel that is not. -/
theorem convertRow_refused {s : State} {depth bpp n x : Nat} {a : Word} {f : BlockFault} (hx : x < n)
    (hf : s.convertPixel depth (a + BitVec.ofNat 32 (x * bpp)) = .error f)
    (hb : ∀ x' < x, ∃ px, s.convertPixel depth (a + BitVec.ofNat 32 (x' * bpp)) = .ok px) :
    s.convertRow depth bpp n a = .error f := by
  induction n generalizing a x with
  | zero => omega
  | succ n ih =>
    rw [State.convertRow]
    cases x with
    | zero => simp only [Nat.zero_mul, add_zero_word] at hf; rw [hf]
    | succ x =>
      obtain ⟨px, hp⟩ := hb 0 (by omega)
      simp only [Nat.zero_mul, add_zero_word] at hp
      rw [hp]
      simp only [ih (x := x) (by omega) (by rwa [pixel_addr])
        (fun x' hx' => by rw [pixel_addr]; exact hb (x' + 1) (by omega))]

/-- A frame's rows are read where each of them is. -/
theorem convertRows_of_rows {s : State} {depth bpp width n : Nat} {stride cur other : Word} {il : Bool}
    (h : ∀ y < n, ∃ row, s.convertRow depth bpp width ((if y % (if il then 2 else 1) = 0 then cur else other) +
        BitVec.ofNat 32 (y / (if il then 2 else 1)) * stride) = .ok row) :
    ∃ out, s.convertRows depth bpp width stride il n cur other = .ok out := by
  induction n generalizing cur other with
  | zero => exact ⟨[], rfl⟩
  | succ n ih =>
    obtain ⟨row, hr⟩ := h 0 (by omega)
    obtain ⟨rest, hrest⟩ := ih fun y hy => by rw [← rowAddr_succ]; exact h (y + 1) (by omega)
    simp only [Nat.zero_mod, Nat.zero_div, BitVec.zero_mul, BitVec.add_zero, if_true] at hr
    exact ⟨row ++ rest, by rw [convertRows_succ, hr]; simp only [hrest]⟩

/-- They stop at the fault of the first row that is not. -/
theorem convertRows_refused {s : State} {depth bpp width n y : Nat} {stride cur other : Word} {il : Bool}
    {f : BlockFault} (hy : y < n)
    (hf : s.convertRow depth bpp width ((if y % (if il then 2 else 1) = 0 then cur else other) +
        BitVec.ofNat 32 (y / (if il then 2 else 1)) * stride) = .error f)
    (hb : ∀ y' < y, ∃ row, s.convertRow depth bpp width ((if y' % (if il then 2 else 1) = 0 then cur else other) +
        BitVec.ofNat 32 (y' / (if il then 2 else 1)) * stride) = .ok row) :
    s.convertRows depth bpp width stride il n cur other = .error f := by
  induction n generalizing cur other y with
  | zero => omega
  | succ n ih =>
    rw [convertRows_succ]
    cases y with
    | zero =>
      simp only [Nat.zero_mod, Nat.zero_div, BitVec.zero_mul, BitVec.add_zero, if_true] at hf
      rw [hf]
    | succ y =>
      obtain ⟨row, hr⟩ := hb 0 (by omega)
      simp only [Nat.zero_mod, Nat.zero_div, BitVec.zero_mul, BitVec.add_zero, if_true] at hr
      rw [hr]
      simp only [ih (y := y) (by omega) (by rwa [← rowAddr_succ])
        (fun y' hy' => by rw [← rowAddr_succ]; exact hb (y' + 1) (by omega))]

/-- A frame that is read holds three bytes a pixel (R43). -/
theorem readFrame_wf {s : State} {fr : Frame} (h : s.readFrame = .ok fr) : fr.wf = true := by
  unfold State.readFrame at h
  split at h
  · cases h
  · dsimp only at h
    split at h
    · cases h
    · next hb =>
      cases h
      simpa [Frame.wf] using (convertRows_ok hb).1

/-- A depth below 4 is one of the four codes; the two-bit field of the default map holds no other (R118). -/
theorem bppOf_depth {s : State} (h : s.get .fbDepth < 4) : ∃ b, bppOf (s.get .fbDepth) = some b ∧ 0 < b := by
  generalize s.get .fbDepth = d at *
  interval_cases d <;> simp [bppOf]

end Sys2Proof.Machine
end

