-- ==== Sys2Proof/Laws/Tick.lean ====
section
/-! SUPPORT. Laws of the tick (42_spg.md): what its interrupts and its edges do, and what it can end in. -/

namespace Sys2Proof.Machine

theorem stepVblankIn_eq (s : State) : s.stepVblankIn = { s with
    trace := s.trace ++ (if s.currentLine = s.get .vblankInLineNumber then [.raise s.config.interrupts.vblankIn] else []) } := by
  unfold State.stepVblankIn
  split
  · rfl
  · simp

theorem stepVblankOut_eq (s : State) : s.stepVblankOut = { s with
    trace := s.trace ++ (if s.currentLine = s.get .vblankOutLineNumber then [.raise s.config.interrupts.vblankOut] else []) } := by
  unfold State.stepVblankOut
  split
  · rfl
  · simp

theorem stepHblank_on {s : State} (h : s.get .hblankIntMode = 0 ∨ s.get .hblankIntMode = 2) :
    s.stepHblank = .on { s with
      trace := s.trace ++
        (if s.get .hblankIntMode = 2 ∨ (s.get .hblankIntMode = 0 ∧ s.currentLine = s.get .lineCompVal)
          then [.raise s.config.interrupts.hblank] else []) } := by
  rcases stepHblank_cases s with ⟨hm, hl, h'⟩ | ⟨hm, hl, h'⟩ | ⟨hm, h'⟩ | ⟨hm, hm', h'⟩
  · rw [h', if_pos (Or.inr ⟨hm, hl⟩)]; rfl
  · rw [h', if_neg (by simp [hm, hl])]; simp
  · rw [h', if_pos (Or.inl hm)]; rfl
  · omega

/-- In mode 0 or 2 the interrupts of a tick are its line's events, in order (R139). -/
theorem stepInterrupts_on {s : State} (h : s.get .hblankIntMode = 0 ∨ s.get .hblankIntMode = 2) :
    s.stepInterrupts = .on { s with trace := s.trace ++ s.lineEvents s.currentLine } := by
  unfold State.stepInterrupts State.lineEvents
  rw [stepHblank_on h, andThen_on, stepVblankIn_eq, stepVblankOut_eq]
  simp only [List.append_assoc]
  rfl

/-- In any other mode the tick stops there (R132). -/
theorem stepInterrupts_halted {s : State} (h0 : s.get .hblankIntMode ≠ 0) (h2 : s.get .hblankIntMode ≠ 2) :
    s.stepInterrupts = .halted { s with fault := some (.hblankMode (s.get .hblankIntMode)) } := by
  unfold State.stepInterrupts
  rcases stepHblank_cases s with ⟨hm, -, -⟩ | ⟨hm, -, -⟩ | ⟨hm, -⟩ | ⟨-, -, h'⟩
  · exact absurd hm h0
  · exact absurd hm h0
  · exact absurd hm h2
  · rw [h']; rfl

theorem lineEvents_wf (s : State) (line : Nat) : (s.lineEvents line).all Event.wf = true := by
  unfold State.lineEvents
  split <;> split <;> split <;> rfl

theorem vsyncOf_iff (s : State) (line : Nat) :
    vsyncOf (s.get .vbstart) (s.get .vbend) line = true ↔ s.vsyncAt line := by
  unfold vsyncOf State.vsyncAt
  split <;> simp

/-- A tick after its line advance and its interrupts, the vsync flag recomputed. -/
def State.atLine (s : State) : State := { s with
  currentLine := s.nextLine, timer := none, vsync := vsyncOf (s.get .vbstart) (s.get .vbend) s.nextLine,
  trace := s.trace ++ s.lineEvents s.nextLine }

/-- In mode 0 or 2 a tick is its edges from there, then the mirror and the next timer. -/
theorem tickBody_on {s : State} (h : s.get .hblankIntMode = 0 ∨ s.get .hblankIntMode = 2) :
    s.tickBody = (s.atLine.stepEdges s.vsync).andThen fun t =>
      .on ((t.stepMirror.schedule t.linePeriodNs).answer .done) := by
  unfold State.tickBody
  rw [stepInterrupts_on (s := State.stepLine { s with timer := none }) h, andThen_on]
  rfl

/-- What the edges of a tick can leave: the flags, the counter, a frame kept; events added, none for nothing. -/
theorem stepEdges_frame (prev : Bool) (s : State) :
    ∃ l, l.all Event.wf = true ∧
      ((∃ f g c o, (g = true → s.gotStartrender = true) ∧ (∀ fr, o = some fr → o = s.fbOut ∨ fr.wf = true) ∧
        s.stepEdges prev = .on { s with
          field := f, gotStartrender := g, vblankCount := c, fbOut := o, trace := s.trace ++ l }) ∨
      (∃ c x, s.stepEdges prev = .halted { s with vblankCount := c, trace := s.trace ++ l, fault := some x })) := by
  rcases stepEdges_cases prev s with ⟨-, -, h⟩ | ⟨-, -, h⟩ | ⟨-, h⟩
  · rw [h]
    rcases vblankInEvent_cases s with ⟨-, h'⟩ | ⟨hg, h'⟩
    · refine ⟨[.counterAdd s.config.vblankCounter 1, .vblankIn (s.flag .blankVideo)], rfl, Or.inl
        ⟨nextField (s.flag .interlace) s.field, false, s.vblankCount + 1, s.fbOut, by simp, fun _ _ => Or.inl rfl, ?_⟩⟩
      rw [h']
      simp [State.toggleField, State.countVblank, State.emit, State.flag, State.get, State.off, State.reg]
    · have key : ∀ o l, (l : List Event).all Event.wf = true →
          (∀ fr, o = some fr → o = s.fbOut ∨ fr.wf = true) →
          s.countVblank.detectAndExtract = .on { s.countVblank with fbOut := o, trace := s.countVblank.trace ++ l } →
          ∃ l, l.all Event.wf = true ∧
            ((∃ f g c o, (g = true → s.gotStartrender = true) ∧ (∀ fr, o = some fr → o = s.fbOut ∨ fr.wf = true) ∧
              s.vblankInEvent = .on { s with
                field := f, gotStartrender := g, vblankCount := c, fbOut := o, trace := s.trace ++ l }) ∨
            (∃ c x, s.vblankInEvent = .halted { s with
              vblankCount := c, trace := s.trace ++ l, fault := some x })) := by
        intro o l hl ho hd
        refine ⟨[.counterAdd s.config.vblankCounter 1] ++ l ++ [.vblankIn (s.flag .blankVideo)], ?_, Or.inl
          ⟨nextField (s.flag .interlace) s.field, s.gotStartrender, s.vblankCount + 1, o, id, ho, ?_⟩⟩
        · simp only [List.all_append, hl]; rfl
        · rw [h', hd]
          simp [State.toggleField, State.countVblank, State.emit, State.flag, State.get, State.off, State.reg]
      rcases detectAndExtract_cases s.countVblank with ⟨f, -, h2⟩ | ⟨-, h2⟩ | ⟨-, -, h2⟩ | ⟨f, -, -, -, h2⟩ |
        ⟨fr, -, -, h4, h2⟩
      · refine ⟨[.counterAdd s.config.vblankCounter 1], rfl, Or.inr ⟨s.vblankCount + 1, f, ?_⟩⟩
        rw [h', h2]; rfl
      · exact key s.fbOut [] rfl (fun _ _ => Or.inl rfl) (by rw [h2]; simp; rfl)
      · exact key s.fbOut [] rfl (fun _ _ => Or.inl rfl) (by rw [h2]; simp; rfl)
      · refine ⟨[.counterAdd s.config.vblankCounter 1], rfl, Or.inr ⟨s.vblankCount + 1, f, ?_⟩⟩
        rw [h', h2]; rfl
      · have hw := readFrame_wf h4
        refine key (some fr) [.pushFrame fr] (by simp [Event.wf, hw]) (fun _ h => Or.inr ?_) (by rw [h2]; rfl)
        cases h; exact hw
  · exact ⟨[.vblankOut], rfl, Or.inl ⟨s.field, s.gotStartrender, s.vblankCount, s.fbOut, id, fun _ _ => Or.inl rfl,
      by rw [h]; rfl⟩⟩
  · exact ⟨[], rfl, Or.inl ⟨s.field, s.gotStartrender, s.vblankCount, s.fbOut, id, fun _ _ => Or.inl rfl,
      by rw [h]; simp⟩⟩

end Sys2Proof.Machine
end

