-- ==== Sys2Proof/Laws/Exec.lean ====
section
/-! SUPPORT. What each operation can leave: one inversion lemma for `exec`, `exec_effect`, which says for every operation
all the shapes its next state can have. Statements about every operation follow from it by cases. -/

namespace Sys2Proof.Machine

/-! ### The shapes of a next state -/

/-- Nothing changed but the answer. -/
def State.Quiet (s t : State) : Prop := t = { s with reply := t.reply }

/-- The operation was accepted and raised a fault before it changed anything. -/
def State.Refused (s t : State) : Prop :=
  s.accepts = true ∧ ∃ f, t = { s with fault := some f, reply := .faulted }

/-- VRAM was written, in canonical form if it was before. -/
def State.Wrote (s t : State) : Prop :=
  s.accepts = true ∧ ∃ m, (Memory.wf s.vram = true → Memory.wf m = true) ∧ t = { s with vram := m, reply := .done }

/-- Outward calls were made, and nothing else. -/
def State.Called (s t : State) : Prop :=
  s.accepts = true ∧ ∃ l, l.all Event.wf = true ∧ t = { s with trace := s.trace ++ l, reply := .done }

/-- One register was stored, and outward calls made. -/
def State.Stored (o : Nat) (s t : State) : Prop :=
  s.accepts = true ∧ o < s.config.regMap.numRegs ∧ ∃ w l, l.all Event.wf = true ∧
    t = { s with regs := cellsWrite 0 s.regs o w, trace := s.trace ++ l, reply := .done }

/-- One register was stored and the timing reconfigured. -/
def State.Retimed (o : Nat) (s t : State) : Prop :=
  s.accepts = true ∧ ∃ w p l, l.all Event.wf = true ∧ 0 < p ∧ t = { s with
    regs := cellsWrite 0 s.regs o w, linePeriodNs := p, timer := some (s.now + p), trace := s.trace ++ l, reply := .done }

/-- Marking ran, to its end or to a fault. -/
def State.Marked (s t : State) : Prop :=
  s.accepts = true ∧ ∃ m, (Memory.wf s.vram = true → Memory.wf m = true) ∧
    (t = { s with vram := m, gotStartrender := true, trace := s.trace ++ [.pipelineStartRender], reply := .done } ∨
    ∃ f, t = { s with
      vram := m, trace := s.trace ++ [.pipelineStartRender], fault := some f, reply := .faulted })

/-- The tick ran to its end. -/
def State.Ticked (s t : State) : Prop :=
  s.accepts = true ∧ s.timer = some s.now ∧ ∃ f v g c o l, l.all Event.wf = true ∧
    (g = true → s.gotStartrender = true) ∧ (∀ fr, o = some fr → o = s.fbOut ∨ fr.wf = true) ∧
    t = { s with
      currentLine := s.nextLine, field := f, vsync := v, gotStartrender := g, vblankCount := c, fbOut := o,
      regs := cellsWrite 0 s.regs (s.off .spgStatus) (mirrorWord s.config.regMap s.nextLine f v (s.word .spgStatus)),
      timer := some (s.now + s.linePeriodNs), trace := s.trace ++ l, reply := .done }

/-- The tick stopped at a fault. -/
def State.TickStopped (s t : State) : Prop :=
  s.accepts = true ∧ s.timer = some s.now ∧ ∃ v c f l, l.all Event.wf = true ∧
    t = { s with
      currentLine := s.nextLine, vsync := v, vblankCount := c, timer := none, trace := s.trace ++ l, fault := some f,
      reply := .faulted }

/-- The block was reset. -/
def State.Restarted (s t : State) : Prop :=
  ∃ p l, l.all Event.wf = true ∧ 0 < p ∧ t = { s with
    regs := resetRegs s.config.regMap.numRegs s.config.regReset, currentLine := 0, field := false, vsync := false, linePeriodNs := p,
    timer := some (s.now + p), gotStartrender := false, vblankCount := 0, fbOut := none, fault := none, live := true,
    trace := l, reply := .done }

/-- The block was torn down. -/
def State.TornDown (s t : State) : Prop :=
  s.live = true ∧ ∃ l, l.all Event.wf = true ∧
    t = { s with timer := none, live := false, trace := s.trace ++ l, reply := .done }

/-- What an operation can leave. -/
def Effect (i : Instr) (s t : State) : Prop :=
  match i with
  | .rdReg _ _ | .rdV32x1 _ | .rdV32x2 _ | .rdV32x4 _ | .rdV32x8 _ | .rdV64x1 _ | .rdV64x2 _ | .rdV64x4 _
  | .rdV64x8 _ | .vsize => s.Quiet t ∨ s.Refused t
  | .wrRegId _ _ _ => s.Quiet t
  | .wrRegSoftreset _ _ _ | .wrRegTaListInit _ _ _ | .wrRegTaListCont _ _ _ => s.Quiet t ∨ s.Called t
  | .wrRegStartrender _ data _ => s.Quiet t ∨ (data ≠ 0 ∧ s.Marked t)
  | .wrRegTaYuvTexBase _ _ _ => s.Quiet t ∨ s.Stored (s.off .taYuvTexBase) t
  | .wrRegSpgLoad _ _ _ => s.Quiet t ∨ s.Retimed (s.off .spgLoad) t
  | .wrRegFbRCtrl _ _ _ => s.Quiet t ∨ s.Retimed (s.off .fbRCtrl) t
  | .wrReg addr _ _ => s.Quiet t ∨ s.Refused t ∨ s.Stored (wordOffset addr) t
  | .wrV32x1 _ _ | .wrV32x2 _ _ | .wrV32x4 _ _ | .wrV32x8 _ _ | .wrV64x1 _ _ | .wrV64x2 _ _ | .wrV64x4 _ _
  | .wrV64x8 _ _ => s.Quiet t ∨ s.Refused t ∨ s.Wrote t
  | .tick => s.Quiet t ∨ s.Ticked t ∨ s.TickStopped t
  | .reset => s.Restarted t
  | .teardown => s.Quiet t ∨ s.TornDown t

/-! ### Each meaning has its shape -/

theorem quiet_answer (s : State) (r : Reply) : s.Quiet (s.answer r) := rfl

theorem runIf_cases (p : Bool) (body : State → Flow) (s : State) :
    (p = false ∧ runIf p body s = .next (s.answer .noStep)) ∨ (p = true ∧ runIf p body s = .next (body s).close) := by
  cases p
  · exact Or.inl ⟨rfl, rfl⟩
  · exact Or.inr ⟨rfl, rfl⟩

theorem execRdReg_effect (a m : Word) (s : State) :
    ∃ t, execRdReg a m s = .next t ∧ (s.Quiet t ∨ s.Refused t) := by
  unfold execRdReg
  rcases runIf_cases s.accepts (fun s => if s.config.regMap.numRegs ≤ wordOffset a then s.raise (.regRange a)
    else .on (s.answer (.word (s.reg (wordOffset a))))) s with ⟨-, h⟩ | ⟨hs, h⟩
  · exact ⟨_, h, Or.inl (quiet_answer s _)⟩
  · refine ⟨_, h, ?_⟩
    split
    · exact Or.inr ⟨hs, _, rfl⟩
    · exact Or.inl (quiet_answer s _)

theorem guestRead_effect (v : View) (n : Nat) (a : Word) (s : State) :
    ∃ t, runIf s.accepts (guestRead v n a) s = .next t ∧ (s.Quiet t ∨ s.Refused t) := by
  rcases runIf_cases s.accepts (guestRead v n a) s with ⟨-, h⟩ | ⟨hs, h⟩
  · exact ⟨_, h, Or.inl (quiet_answer s _)⟩
  · refine ⟨_, h, ?_⟩
    rcases guestRead_cases v n a s with ⟨f, -, h'⟩ | ⟨-, h'⟩ <;> rw [h']
    · exact Or.inr ⟨hs, f, rfl⟩
    · exact Or.inl (quiet_answer s _)

theorem guestWrite_effect (v : View) (n : Nat) (a : Word) (d : Nat) (s : State) :
    ∃ t, runIf s.accepts (guestWrite v n a d) s = .next t ∧ (s.Quiet t ∨ s.Refused t ∨ s.Wrote t) := by
  rcases runIf_cases s.accepts (guestWrite v n a d) s with ⟨-, h⟩ | ⟨hs, h⟩
  · exact ⟨_, h, Or.inl (quiet_answer s _)⟩
  · refine ⟨_, h, Or.inr ?_⟩
    rcases guestWrite_cases v n a d s with ⟨f, -, h'⟩ | ⟨-, h'⟩ <;> rw [h']
    · exact Or.inl ⟨hs, f, rfl⟩
    · exact Or.inr ⟨hs, _, writeBytes_wf _ _ _, rfl⟩

theorem trigger_effect (p : Bool) (e : Event) (he : e.wf = true) (s : State) :
    ∃ t, runIf s.accepts (fun s => .on ((s.emitIf p e).answer .done)) s = .next t ∧ (s.Quiet t ∨ s.Called t) := by
  rcases runIf_cases s.accepts (fun s => .on ((s.emitIf p e).answer .done)) s with ⟨-, h⟩ | ⟨hs, h⟩
  · exact ⟨_, h, Or.inl (quiet_answer s _)⟩
  · refine ⟨_, h, Or.inr ⟨hs, if p then [e] else [], by cases p <;> simp [he], ?_⟩⟩
    cases p <;> simp [State.emitIf, State.emit, State.answer]

theorem execWrRegStartrender_effect (a d m : Word) (s : State) :
    ∃ t, execWrRegStartrender a d m s = .next t ∧ (s.Quiet t ∨ (d ≠ 0 ∧ s.Marked t)) := by
  by_cases hs : s.accepts = true
  · by_cases hd : d = 0
    · exact ⟨s.answer .done, by simp [execWrRegStartrender, runIf_eq, hs, hd], Or.inl (quiet_answer s _)⟩
    · refine ⟨_, by simp only [execWrRegStartrender, runIf_eq, hs, if_true, hd, if_false]; rfl, Or.inr ⟨hd, hs, ?_⟩⟩
      unfold State.markFramebuffers
      rcases markWords_cases (markTargets (s.emit .pipelineStartRender).config
          ((s.emit .pipelineStartRender).word .fbWSof1) ++
        markTargets (s.emit .pipelineStartRender).config ((s.emit .pipelineStartRender).word .fbWSof2))
        (s.emit .pipelineStartRender) with ⟨v, hv, hw⟩ | ⟨v, x, hv, hw⟩
      · exact ⟨v, hw, Or.inl (by rw [hv]; rfl)⟩
      · exact ⟨v, hw, Or.inr ⟨_, by rw [hv]; rfl⟩⟩
  · exact ⟨s.answer .noStep, by simp [execWrRegStartrender, runIf_eq, hs], Or.inl (quiet_answer s _)⟩

theorem execWrRegTaYuvTexBase_effect (a d m : Word) (s : State) :
    ∃ t, execWrRegTaYuvTexBase a d m s = .next t ∧ (s.Quiet t ∨ s.Stored (s.off .taYuvTexBase) t) := by
  unfold execWrRegTaYuvTexBase
  rcases runIf_cases s.accepts (fun s => .on (((s.store (s.off .taYuvTexBase) d m).emit
    .pipelineYuvInit).answer .done)) s with ⟨-, h⟩ | ⟨hs, h⟩
  · exact ⟨_, h, Or.inl (quiet_answer s _)⟩
  · exact ⟨_, h, Or.inr ⟨hs, off_lt s _, _, [.pipelineYuvInit], rfl, rfl⟩⟩

theorem retime_effect (r : RegName) (d m : Word) (s : State) :
    ∃ t, runIf s.accepts (fun s => .on ((s.store (s.off r) d m).reconfigure.answer .done)) s = .next t ∧
      (s.Quiet t ∨ s.Retimed (s.off r) t) := by
  rcases runIf_cases s.accepts (fun s => .on ((s.store (s.off r) d m).reconfigure.answer .done)) s with ⟨-, h⟩ | ⟨hs, h⟩
  · exact ⟨_, h, Or.inl (quiet_answer s _)⟩
  · refine ⟨_, h, Or.inr ⟨hs, maskedWord s.config (s.reg (s.off r)) d m, _, (if s.timer = none then [] else [.timerCancel]) ++
      [.timerArm (s.now + nsPerSec / (s.store (s.off r) d m).lineHz)], ?_, period_pos (s.store (s.off r) d m), ?_⟩⟩
    · cases s.timer <;> rfl
    · rw [reconfigure_eq]
      simp [State.answer, State.store, State.setReg]
      rfl

theorem execWrReg_effect (a d m : Word) (s : State) :
    ∃ t, execWrReg a d m s = .next t ∧ (s.Quiet t ∨ s.Refused t ∨ s.Stored (wordOffset a) t) := by
  unfold execWrReg
  rcases runIf_cases s.accepts (fun s => if s.config.regMap.numRegs ≤ wordOffset a then s.raise (.regRange a)
    else .on ((s.store (wordOffset a) d m).answer .done)) s with ⟨-, h⟩ | ⟨hs, h⟩
  · exact ⟨_, h, Or.inl (quiet_answer s _)⟩
  · refine ⟨_, h, Or.inr ?_⟩
    split
    · exact Or.inl ⟨hs, _, rfl⟩
    · next hn => exact Or.inr ⟨hs, by omega, _, [], rfl, by simp [State.answer, State.store, State.setReg]; rfl⟩

theorem execTick_effect (s : State) :
    ∃ t, execTick s = .next t ∧ (s.Quiet t ∨ s.Ticked t ∨ s.TickStopped t) := by
  unfold execTick
  rcases runIf_cases (s.accepts && decide (s.timer = some s.now)) State.tickBody s with ⟨-, h⟩ | ⟨hp, h⟩
  · exact ⟨_, h, Or.inl (quiet_answer s _)⟩
  · simp only [Bool.and_eq_true, decide_eq_true_eq] at hp
    obtain ⟨hs, ht⟩ := hp
    refine ⟨_, h, Or.inr ?_⟩
    by_cases hm : s.get .hblankIntMode = 0 ∨ s.get .hblankIntMode = 2
    · rw [tickBody_on hm]
      obtain ⟨l, hl, ⟨f, g, c, o, hg, ho, he⟩ | ⟨c, x, he⟩⟩ := stepEdges_frame s.vsync s.atLine
      · refine Or.inl ⟨hs, ht, f, s.atLine.vsync, g, c, o,
          s.lineEvents s.nextLine ++ l ++ [.timerArm (s.now + s.linePeriodNs)], ?_, hg, ho, ?_⟩
        · simp only [List.all_append, lineEvents_wf, hl]; rfl
        · rw [he]
          simp only [← List.append_assoc]
          rfl
      · refine Or.inr ⟨hs, ht, s.atLine.vsync, c, x, s.lineEvents s.nextLine ++ l, ?_, ?_⟩
        · simp only [List.all_append, lineEvents_wf, hl]; rfl
        · rw [he]
          simp only [← List.append_assoc]
          rfl
    · refine Or.inr ⟨hs, ht, s.vsync, s.vblankCount, .hblankMode (s.get .hblankIntMode), [], rfl, ?_⟩
      have h0 : s.tickBody = .halted { State.stepLine { s with timer := none } with
          fault := some (.hblankMode (s.get .hblankIntMode)) } := by
        unfold State.tickBody
        rw [stepInterrupts_halted (s := State.stepLine { s with timer := none }) (fun h => hm (Or.inl h))
          (fun h => hm (Or.inr h))]
        rfl
      rw [h0]
      simp only [List.append_nil]
      rfl

theorem execReset_effect (s : State) : ∃ t, execReset s = .next t ∧ s.Restarted t := by
  refine ⟨_, rfl, ?_⟩
  rw [close_on, State.resetSpg, reconfigure_eq, cancel_eq]
  refine ⟨_, _, ?_, period_pos (State.resetBlock { s with trace := [] }), rfl⟩
  cases h : s.timer <;> rfl

theorem execTeardown_effect (s : State) : ∃ t, execTeardown s = .next t ∧ (s.Quiet t ∨ s.TornDown t) := by
  unfold execTeardown
  rcases runIf_cases s.live (fun s => .on (State.answer { s.cancel with live := false } .done)) s with
    ⟨-, h⟩ | ⟨hl, h⟩
  · exact ⟨_, h, Or.inl (quiet_answer s _)⟩
  · refine ⟨_, h, Or.inr ⟨hl, if s.timer = none then [] else [.timerCancel], ?_, ?_⟩⟩
    · cases s.timer <;> rfl
    · rw [cancel_eq]; rfl

theorem execVsize_effect (s : State) : ∃ t, execVsize s = .next t ∧ (s.Quiet t ∨ s.Refused t) := by
  unfold execVsize
  rcases runIf_cases s.accepts (fun s =>
    match s.videoSize with
    | .error f => s.raise f
    | .ok (w, h) => .on (s.answer (.size w h))) s with ⟨-, h⟩ | ⟨hs, h⟩
  · exact ⟨_, h, Or.inl (quiet_answer s _)⟩
  · refine ⟨_, h, ?_⟩
    cases s.videoSize with
    | error f => exact Or.inr ⟨hs, f, rfl⟩
    | ok p => exact Or.inl (quiet_answer s _)

/-! ### All of them -/

/-- Every operation ends in a next state of one of its shapes. -/
theorem exec_effect (i : Instr) (s : State) : ∃ t, exec i s = .next t ∧ Effect i s t := by
  cases i with
  | rdReg a m => exact execRdReg_effect a m s
  | wrRegId a d m =>
    rcases runIf_cases s.accepts (fun s => .on (s.answer .done)) s with ⟨-, h⟩ | ⟨-, h⟩
    · exact ⟨_, h, quiet_answer s _⟩
    · exact ⟨_, h, quiet_answer s _⟩
  | wrRegSoftreset a d m => exact trigger_effect _ .pipelineReset rfl s
  | wrRegStartrender a d m => exact execWrRegStartrender_effect a d m s
  | wrRegTaListInit a d m => exact trigger_effect _ .pipelineListInit rfl s
  | wrRegTaListCont a d m => exact trigger_effect _ .pipelineListCont rfl s
  | wrRegTaYuvTexBase a d m => exact execWrRegTaYuvTexBase_effect a d m s
  | wrRegSpgLoad a d m => exact retime_effect _ d m s
  | wrRegFbRCtrl a d m => exact retime_effect _ d m s
  | wrReg a d m => exact execWrReg_effect a d m s
  | rdV32x1 a => exact guestRead_effect .v32 1 a s
  | rdV32x2 a => exact guestRead_effect .v32 2 a s
  | rdV32x4 a => exact guestRead_effect .v32 4 a s
  | rdV32x8 a => exact guestRead_effect .v32 8 a s
  | wrV32x1 a d => exact guestWrite_effect .v32 1 a d.toNat s
  | wrV32x2 a d => exact guestWrite_effect .v32 2 a d.toNat s
  | wrV32x4 a d => exact guestWrite_effect .v32 4 a d.toNat s
  | wrV32x8 a d => exact guestWrite_effect .v32 8 a d.toNat s
  | rdV64x1 a => exact guestRead_effect .v64 1 a s
  | rdV64x2 a => exact guestRead_effect .v64 2 a s
  | rdV64x4 a => exact guestRead_effect .v64 4 a s
  | rdV64x8 a => exact guestRead_effect .v64 8 a s
  | wrV64x1 a d => exact guestWrite_effect .v64 1 a d.toNat s
  | wrV64x2 a d => exact guestWrite_effect .v64 2 a d.toNat s
  | wrV64x4 a d => exact guestWrite_effect .v64 4 a d.toNat s
  | wrV64x8 a d => exact guestWrite_effect .v64 8 a d.toNat s
  | tick => exact execTick_effect s
  | reset => exact execReset_effect s
  | teardown => exact execTeardown_effect s
  | vsize => exact execVsize_effect s

/-- The same, from the next state. -/
theorem effect_of_exec {i : Instr} {s t : State} (h : exec i s = .next t) : Effect i s t := by
  obtain ⟨t', h', he⟩ := exec_effect i s
  rw [h] at h'
  cases h'
  exact he

end Sys2Proof.Machine
end

