-- ==== Sys2Proof/Laws/PerInstr.lean ====
section
/-! SUPPORT. Statements made per operation: whatever transaction decodes to an operation has the format, the match bits
and the operand fields that the operation's row of the opcode table gives. -/

namespace Sys2Proof.Laws

open Sys2Proof Machine

/-- The match bits of the row that writes a named register: its byte address in all but bits 1:0 (R52, R72). -/
def MatchesReg (m : RegisterMap) (r : RegName) (addr : Word) : Prop :=
  addr &&& 0xFFFFFFFC = BitVec.ofNat 32 (4 * m.offset r)

/-- Under the default REGMAP these are the match bits of the opcode table. -/
theorem matchesReg_default : [RegName.id, .softreset, .startrender, .taListInit, .taListCont, .taYuvTexBase, .spgLoad,
    .fbRCtrl].map (fun r => BitVec.ofNat 32 (4 * defaultMap.offset r)) =
    [0x00000000, 0x00000008, 0x00000014, 0x00000144, 0x00000160, 0x00000148, 0x000000D8, 0x00000044] := by decide

/-- Whether a transaction is one of the row of an operation: format, match bits, operands (opcode table; R72 to R76). -/
def RowOf (m : RegisterMap) (i : Instr) (t : Transaction) : Prop :=
  match i with
  | .rdReg addr mask => t = .regRd addr mask
  | .wrRegId addr data mask => t = .regWr addr data mask ∧ MatchesReg m .id addr
  | .wrRegSoftreset addr data mask => t = .regWr addr data mask ∧ MatchesReg m .softreset addr
  | .wrRegStartrender addr data mask => t = .regWr addr data mask ∧ MatchesReg m .startrender addr
  | .wrRegTaListInit addr data mask => t = .regWr addr data mask ∧ MatchesReg m .taListInit addr
  | .wrRegTaListCont addr data mask => t = .regWr addr data mask ∧ MatchesReg m .taListCont addr
  | .wrRegTaYuvTexBase addr data mask => t = .regWr addr data mask ∧ MatchesReg m .taYuvTexBase addr
  | .wrRegSpgLoad addr data mask => t = .regWr addr data mask ∧ MatchesReg m .spgLoad addr
  | .wrRegFbRCtrl addr data mask => t = .regWr addr data mask ∧ MatchesReg m .fbRCtrl addr
  | .wrReg addr data mask => t = .regWr addr data mask ∧ isPlainOffset m (wordOffset addr) = true
  | .rdV32x1 addr => t = .v32Rd addr 0x00000000000000FF
  | .rdV32x2 addr => t = .v32Rd addr 0x000000000000FFFF
  | .rdV32x4 addr => t = .v32Rd addr 0x00000000FFFFFFFF
  | .rdV32x8 addr => t = .v32Rd addr 0xFFFFFFFFFFFFFFFF
  | .wrV32x1 addr data => ∃ bus, t = .v32Wr addr 0x00000000000000FF bus ∧ data = bus.extractLsb' 0 8
  | .wrV32x2 addr data => ∃ bus, t = .v32Wr addr 0x000000000000FFFF bus ∧ data = bus.extractLsb' 0 16
  | .wrV32x4 addr data => ∃ bus, t = .v32Wr addr 0x00000000FFFFFFFF bus ∧ data = bus.extractLsb' 0 32
  | .wrV32x8 addr data => ∃ bus, t = .v32Wr addr 0xFFFFFFFFFFFFFFFF bus ∧ data = bus.extractLsb' 0 64
  | .rdV64x1 addr => t = .v64Rd addr 0x00000000000000FF
  | .rdV64x2 addr => t = .v64Rd addr 0x000000000000FFFF
  | .rdV64x4 addr => t = .v64Rd addr 0x00000000FFFFFFFF
  | .rdV64x8 addr => t = .v64Rd addr 0xFFFFFFFFFFFFFFFF
  | .wrV64x1 addr data => ∃ bus, t = .v64Wr addr 0x00000000000000FF bus ∧ data = bus.extractLsb' 0 8
  | .wrV64x2 addr data => ∃ bus, t = .v64Wr addr 0x000000000000FFFF bus ∧ data = bus.extractLsb' 0 16
  | .wrV64x4 addr data => ∃ bus, t = .v64Wr addr 0x00000000FFFFFFFF bus ∧ data = bus.extractLsb' 0 32
  | .wrV64x8 addr data => ∃ bus, t = .v64Wr addr 0xFFFFFFFFFFFFFFFF bus ∧ data = bus.extractLsb' 0 64
  | .tick => t = .tick
  | .reset => t = .reset
  | .teardown => t = .teardown
  | .vsize => t = .vsize

/-- No transaction of another row decodes to the operation, whatever the register map. -/
def FormatOfRow.Statement (i : Instr) : Prop :=
  ∀ (m : RegisterMap) (t : Transaction), decode m t = .ok i → RowOf m i t

/-- The address of a word offset is that offset's byte address in all but bits 1:0. -/
theorem wordOffset_masked {addr : Word} {o : Nat} (h : wordOffset addr = o) :
    addr &&& (0xFFFFFFFC : Word) = (BitVec.ofNat 32 (4 * o) : Word) := by
  subst h
  apply BitVec.eq_of_toNat_eq
  have hlt := addr.isLt
  have high : ∀ i < 32, ¬ i < 2 → (0xFFFFFFFC : Word).getLsbD i = true := by decide
  have low : ∀ i < 2, (0xFFFFFFFC : Word).getLsbD i = false := by decide
  have key : addr &&& (0xFFFFFFFC : Word) = (addr >>> 2) <<< 2 := by
    apply BitVec.eq_of_getLsbD_eq
    intro i hi
    rw [BitVec.getLsbD_and, BitVec.getLsbD_shiftLeft, BitVec.getLsbD_ushiftRight]
    by_cases h2 : i < 2
    · simp only [low i h2, h2]; simp
    · rw [high i hi h2]
      simp [h2, hi, show 2 + (i - 2) = i by omega]
  rw [key]
  simp [wordOffset, BitVec.toNat_shiftLeft, BitVec.toNat_ushiftRight, Nat.shiftLeft_eq, Nat.shiftRight_eq_div_pow]
  omega

/-! ### Which operations a transaction can decode to -/

theorem decodeRegWr_row (m : RegisterMap) (addr data mask : Word) :
    RowOf m (decodeRegWr m addr data mask) (.regWr addr data mask) := by
  unfold decodeRegWr
  simp only
  split
  · next h =>
    refine ⟨rfl, ?_⟩
    simp only [isPlainOffset, List.all_eq_true, bne_iff_ne]
    intro r _
    have := m.offset_lt r
    omega
  · repeat' split
    all_goals first
      | exact ⟨rfl, wordOffset_masked (by assumption)⟩
      | skip
    refine ⟨rfl, ?_⟩
    simp only [isPlainOffset, specialRegs, List.all_cons, List.all_nil, bne_iff_ne, Bool.and_true, Bool.and_eq_true]
    refine ⟨?_, ?_, ?_, ?_, ?_, ?_, ?_, ?_⟩ <;> (apply Ne.symm; assumption)

theorem setWidth_eq_extract (d : DWord) (n : Nat) : d.setWidth n = d.extractLsb' 0 n := by
  apply BitVec.eq_of_getLsbD_eq
  intro i hi
  simp [hi]

theorem decodeWidth_ok {mask : DWord} {x1 x2 x4 x8 i : Instr} (h : decodeWidth mask x1 x2 x4 x8 = .ok i) :
    (mask = 0x00000000000000FF ∧ i = x1) ∨ (mask = 0x000000000000FFFF ∧ i = x2) ∨
    (mask = 0x00000000FFFFFFFF ∧ i = x4) ∨ (mask = 0xFFFFFFFFFFFFFFFF ∧ i = x8) := by
  unfold decodeWidth at h
  split at h
  · next hm => cases h; exact Or.inl ⟨hm, rfl⟩
  · split at h
    · next hm => cases h; exact Or.inr (Or.inl ⟨hm, rfl⟩)
    · split at h
      · next hm => cases h; exact Or.inr (Or.inr (Or.inl ⟨hm, rfl⟩))
      · split at h
        · next hm => cases h; exact Or.inr (Or.inr (Or.inr ⟨hm, rfl⟩))
        · cases h

/-- Every row at once: the lemmas below are its cases. -/
theorem row_of_decode {m : RegisterMap} {t : Transaction} {i : Instr} (h : decode m t = .ok i) : RowOf m i t := by
  cases t with
  | regRd addr mask => cases h; rfl
  | regWr addr data mask => cases h; exact decodeRegWr_row m addr data mask
  | v32Rd addr mask => rcases decodeWidth_ok h with ⟨rfl, rfl⟩ | ⟨rfl, rfl⟩ | ⟨rfl, rfl⟩ | ⟨rfl, rfl⟩ <;> rfl
  | v32Wr addr mask data =>
    rcases decodeWidth_ok h with ⟨rfl, rfl⟩ | ⟨rfl, rfl⟩ | ⟨rfl, rfl⟩ | ⟨rfl, rfl⟩ <;>
      exact ⟨data, rfl, by first | exact setWidth_eq_extract data _ | simp⟩
  | v64Rd addr mask => rcases decodeWidth_ok h with ⟨rfl, rfl⟩ | ⟨rfl, rfl⟩ | ⟨rfl, rfl⟩ | ⟨rfl, rfl⟩ <;> rfl
  | v64Wr addr mask data =>
    rcases decodeWidth_ok h with ⟨rfl, rfl⟩ | ⟨rfl, rfl⟩ | ⟨rfl, rfl⟩ | ⟨rfl, rfl⟩ <;>
      exact ⟨data, rfl, by first | exact setWidth_eq_extract data _ | simp⟩
  | tick => cases h; rfl
  | reset => cases h; rfl
  | teardown => cases h; rfl
  | vsize => cases h; rfl

/-! ### One lemma per operation -/

theorem FormatOfRow.rdReg (addr mask : Word) : FormatOfRow.Statement (.rdReg addr mask) := fun _ _ => row_of_decode
theorem FormatOfRow.wrRegId (addr data mask : Word) : FormatOfRow.Statement (.wrRegId addr data mask) := fun _ _ => row_of_decode
theorem FormatOfRow.wrRegSoftreset (addr data mask : Word) : FormatOfRow.Statement (.wrRegSoftreset addr data mask) := fun _ _ => row_of_decode
theorem FormatOfRow.wrRegStartrender (addr data mask : Word) : FormatOfRow.Statement (.wrRegStartrender addr data mask) := fun _ _ => row_of_decode
theorem FormatOfRow.wrRegTaListInit (addr data mask : Word) : FormatOfRow.Statement (.wrRegTaListInit addr data mask) := fun _ _ => row_of_decode
theorem FormatOfRow.wrRegTaListCont (addr data mask : Word) : FormatOfRow.Statement (.wrRegTaListCont addr data mask) := fun _ _ => row_of_decode
theorem FormatOfRow.wrRegTaYuvTexBase (addr data mask : Word) : FormatOfRow.Statement (.wrRegTaYuvTexBase addr data mask) := fun _ _ => row_of_decode
theorem FormatOfRow.wrRegSpgLoad (addr data mask : Word) : FormatOfRow.Statement (.wrRegSpgLoad addr data mask) := fun _ _ => row_of_decode
theorem FormatOfRow.wrRegFbRCtrl (addr data mask : Word) : FormatOfRow.Statement (.wrRegFbRCtrl addr data mask) := fun _ _ => row_of_decode
theorem FormatOfRow.wrReg (addr data mask : Word) : FormatOfRow.Statement (.wrReg addr data mask) := fun _ _ => row_of_decode
theorem FormatOfRow.rdV32x1 (addr : Word) : FormatOfRow.Statement (.rdV32x1 addr) := fun _ _ => row_of_decode
theorem FormatOfRow.rdV32x2 (addr : Word) : FormatOfRow.Statement (.rdV32x2 addr) := fun _ _ => row_of_decode
theorem FormatOfRow.rdV32x4 (addr : Word) : FormatOfRow.Statement (.rdV32x4 addr) := fun _ _ => row_of_decode
theorem FormatOfRow.rdV32x8 (addr : Word) : FormatOfRow.Statement (.rdV32x8 addr) := fun _ _ => row_of_decode
theorem FormatOfRow.wrV32x1 (addr : Word) (data : BitVec 8) : FormatOfRow.Statement (.wrV32x1 addr data) := fun _ _ => row_of_decode
theorem FormatOfRow.wrV32x2 (addr : Word) (data : BitVec 16) : FormatOfRow.Statement (.wrV32x2 addr data) := fun _ _ => row_of_decode
theorem FormatOfRow.wrV32x4 (addr : Word) (data : BitVec 32) : FormatOfRow.Statement (.wrV32x4 addr data) := fun _ _ => row_of_decode
theorem FormatOfRow.wrV32x8 (addr : Word) (data : BitVec 64) : FormatOfRow.Statement (.wrV32x8 addr data) := fun _ _ => row_of_decode
theorem FormatOfRow.rdV64x1 (addr : Word) : FormatOfRow.Statement (.rdV64x1 addr) := fun _ _ => row_of_decode
theorem FormatOfRow.rdV64x2 (addr : Word) : FormatOfRow.Statement (.rdV64x2 addr) := fun _ _ => row_of_decode
theorem FormatOfRow.rdV64x4 (addr : Word) : FormatOfRow.Statement (.rdV64x4 addr) := fun _ _ => row_of_decode
theorem FormatOfRow.rdV64x8 (addr : Word) : FormatOfRow.Statement (.rdV64x8 addr) := fun _ _ => row_of_decode
theorem FormatOfRow.wrV64x1 (addr : Word) (data : BitVec 8) : FormatOfRow.Statement (.wrV64x1 addr data) := fun _ _ => row_of_decode
theorem FormatOfRow.wrV64x2 (addr : Word) (data : BitVec 16) : FormatOfRow.Statement (.wrV64x2 addr data) := fun _ _ => row_of_decode
theorem FormatOfRow.wrV64x4 (addr : Word) (data : BitVec 32) : FormatOfRow.Statement (.wrV64x4 addr data) := fun _ _ => row_of_decode
theorem FormatOfRow.wrV64x8 (addr : Word) (data : BitVec 64) : FormatOfRow.Statement (.wrV64x8 addr data) := fun _ _ => row_of_decode
theorem FormatOfRow.tick : FormatOfRow.Statement .tick := fun _ _ => row_of_decode
theorem FormatOfRow.reset : FormatOfRow.Statement .reset := fun _ _ => row_of_decode
theorem FormatOfRow.teardown : FormatOfRow.Statement .teardown := fun _ _ => row_of_decode
theorem FormatOfRow.vsize : FormatOfRow.Statement .vsize := fun _ _ => row_of_decode

end Sys2Proof.Laws
end

