-- ==== Sys2Proof/Laws/Step.lean ====
section
/-! SUPPORT. What a step can be: one inversion lemma for `turn` and one for `step`. -/

namespace Sys2Proof.Machine

/-- Whose turn it is (R146): the tick is due, or a move goes first, or nothing is left to do. -/
theorem turn_cases (s : State) :
    (s.turn = .nothing ∧ s.inbox = [] ∧ s.pendingTick = none) ∨
    (∃ d, s.turn = .fire d ∧ s.pendingTick = some d ∧ ∀ r rest, s.inbox = r :: rest → s.goesFirst r d = false) ∨
    (∃ r rest, s.turn = .serve r.move rest (s.moveTime r) ∧ s.inbox = r :: rest ∧
      ∀ d, s.pendingTick = some d → s.goesFirst r d = true) := by
  unfold State.turn
  cases hi : s.inbox with
  | nil => cases hp : s.pendingTick <;> simp
  | cons r rest =>
    cases hp : s.pendingTick with
    | none => simp
    | some d => by_cases hg : s.goesFirst r d = true <;> simp [hg]

theorem pendingTick_some {s : State} {d : Nat} : s.pendingTick = some d ↔ s.accepts = true ∧ s.timer = some d := by
  unfold State.pendingTick
  cases s.accepts <;> simp

/-- A move that goes first is made no later than the deadline, unless it is the tick itself. -/
theorem goesFirst_le {s : State} {r : Request} {d : Nat} (hp : s.pendingTick = some d) (hn : s.now ≤ d)
    (h : s.goesFirst r d = true) : s.moveTime r ≤ d := by
  unfold State.goesFirst at h
  split at h
  · next hm => unfold State.moveTime; rw [hm, hp]; simp [hn]
  · simp only [Bool.or_eq_true, Bool.and_eq_true, decide_eq_true_eq] at h
    omega

theorem now_le_moveTime (s : State) (r : Request) : s.now ≤ s.moveTime r := by
  unfold State.moveTime
  split <;> exact Nat.le_max_left _ _

/-- A held time is no later than the time, nor than an armed deadline. -/
theorem heldAt_le {s : State} {d t : Nat} (h : s.timer = some d) : s.heldAt t ≤ d := by
  unfold State.heldAt
  rw [h]
  exact Nat.min_le_left d t

@[simp] theorem heldAt_none {s : State} {t : Nat} (h : s.timer = none) : s.heldAt t = t := by
  unfold State.heldAt; rw [h]

/-- Where no tick can fire, a move is made at its own time, held at a deadline still armed (log 26). -/
theorem moveTime_of_refused {s : State} (r : Request) (hp : s.pendingTick = none) :
    s.moveTime r = max s.now (s.heldAt r.time) := by
  unfold State.moveTime
  rw [hp]
  split <;> simp_all

/-- The move a step makes is made no later than an armed deadline that has not passed (R146). -/
theorem moveTime_le {s : State} {r : Request} {d : Nat} (ht : s.timer = some d) (hn : s.now ≤ d)
    (hg : ∀ d', s.pendingTick = some d' → s.goesFirst r d' = true) : s.moveTime r ≤ d := by
  cases hp : s.pendingTick with
  | none => rw [moveTime_of_refused r hp]; exact Nat.max_le.2 ⟨hn, heldAt_le ht⟩
  | some d' =>
    obtain rfl : d = d' := Option.some.inj (ht.symm.trans (pendingTick_some.1 hp).2)
    exact goesFirst_le hp hn (hg d hp)

/-- What is still to be applied at or before a horizon: whatever happens next happens no later (R154 (b)). -/
theorem appliedThrough_eq_false {T : Nat} {s : State} :
    s.appliedThrough T = false ↔ ∃ t ≤ T, s.nextTime = some t := by
  unfold State.appliedThrough
  cases s.nextTime <;> simp

/-- What happens next is the tick at its deadline or the oldest move at its time. -/
theorem nextTime_cases (s : State) :
    (s.nextTime = none ∧ s.inbox = [] ∧ s.pendingTick = none) ∨
    (∃ d, s.nextTime = some d ∧ s.pendingTick = some d) ∨
    (∃ r rest, s.nextTime = some (s.moveTime r) ∧ s.inbox = r :: rest) := by
  unfold State.nextTime
  rcases turn_cases s with ⟨ht, hi, hp⟩ | ⟨d, ht, hp, -⟩ | ⟨r, rest, ht, hi, -⟩ <;> rw [ht]
  · exact Or.inl ⟨rfl, hi, hp⟩
  · exact Or.inr (Or.inl ⟨d, rfl, hp⟩)
  · exact Or.inr (Or.inr ⟨r, rest, rfl, hi⟩)

/-- A step with a next state is a tick at its deadline, or a move. -/
theorem step_cases {s t : State} (h : step s = .next t) :
    (∃ d, s.pendingTick = some d ∧ s.now ≤ d ∧ exec .tick (s.atTime d) = .next t) ∨
    (∃ r rest, s.inbox = r :: rest ∧ (∀ d, s.pendingTick = some d → s.goesFirst r d = true) ∧
      serveMove r.move ((s.take rest).atTime (s.moveTime r)) = .next t) := by
  unfold step at h
  rcases turn_cases s with ⟨ht, -, -⟩ | ⟨d, ht, hp, -⟩ | ⟨r, rest, ht, hi, hg⟩ <;> rw [ht] at h
  · cases h
  · dsimp only at h
    split at h
    · next hd => exact Or.inl ⟨d, hp, hd, h⟩
    · cases h
  · exact Or.inr ⟨r, rest, hi, hg, h⟩

/-- A move is an operation of the decoder's, a refused transaction, or a byte written by the memory subsystem. -/
theorem serveMove_cases {m : Move} {s t : State} (h : serveMove m s = .next t) :
    (∃ x i, m = .bus x ∧ decode s.config.regMap x = .ok i ∧ exec i s = .next t) ∨ s.Quiet t ∨ s.Refused t ∨
    (∃ a b, m = .memoryWrite a b ∧ t = s.memoryWrite a b) := by
  unfold serveMove at h
  cases m with
  | memoryWrite a b => cases h; exact Or.inr (Or.inr (Or.inr ⟨a, b, rfl, rfl⟩))
  | bus x =>
    dsimp only at h
    cases hd : decode s.config.regMap x with
    | ok i => rw [hd] at h; exact Or.inl ⟨x, i, rfl, hd, h⟩
    | error r =>
      rw [hd] at h
      cases r with
      | badMask mask =>
        simp only [execReject] at h
        rw [runIf_eq] at h
        cases hs : s.accepts with
        | false => rw [hs] at h; cases h; exact Or.inr (Or.inl rfl)
        | true => rw [hs] at h; cases h; exact Or.inr (Or.inr (Or.inl ⟨hs, _, rfl⟩))

/-! ### Runs -/

@[simp] theorem run_zero (s : State) : Host.Core.run Sys2Proof.core 0 s = .next s := rfl

/-- A run of one step more is that step and the run from where it ends. -/
theorem run_succ {k : Nat} {s t : State} :
    Host.Core.run Sys2Proof.core (k + 1) s = .next t ↔
      ∃ u, step s = .next u ∧ Host.Core.run Sys2Proof.core k u = .next t := by
  have h := Host.Core.run.eq_2 Sys2Proof.core s k
  constructor
  · intro ht
    have h' := h.symm.trans ht
    split at h'
    · next u hu => exact ⟨u, hu, h'⟩
    · cases h'
    · cases h'
  · rintro ⟨u, hu, ht⟩
    rw [show Sys2Proof.core.step s = .next u from hu] at h
    exact h.trans ht

end Sys2Proof.Machine
end

