-- ==== Sys2Proof/Tests/Slice0.lean ====
section
/-! SUPPORT. Tests of the model on fixed values. Expected results are from spec/95_test_vectors.md and the worked examples
of the rules, never from the model. -/

namespace Sys2Proof.Tests

open Sys2Proof Machine

/-! ### Helpers -/

/-- After reset, the trace cleared for readability, as the spec's vectors start. -/
def start : State := { State.reset with trace := [] }

/-- Whether an operation ends in a next state of which something holds. -/
def ran (i : Instr) (s : State) (p : State → Bool) : Bool :=
  match exec i s with
  | .next t => p t
  | _ => false

/-- Whether a step ends in a next state of which something holds. -/
def stepped (s : State) (p : State → Bool) : Bool :=
  match step s with
  | .next t => p t
  | _ => false

/-- A register of the start state set beforehand. -/
def State.withReg (s : State) (r : RegName) (w : Word) : State := s.setReg (s.off r) w

/-- The state right when the timer is due, on a line. -/
def due (s : State) (line : Nat) (vsync : Bool) : State :=
  { s with now := 63556, timer := some 63556, currentLine := line, vsync := vsync }

/-- A linear word of VRAM set beforehand, byte by byte. -/
def State.withWord (s : State) (a w : Word) : State := State.writeBytes .v32 (leBytes 4 w.toNat) a s

/-! ### Well-formedness: the smoke test, one ill-formed term for each check -/

theorem test_wf_id_refused : (Instr.wrRegId 0x004 0 0).wellFormed defaultMap = false := by decide
theorem test_wf_softreset_refused : (Instr.wrRegSoftreset 0x00C 0 0).wellFormed defaultMap = false := by decide
theorem test_wf_startrender_refused : (Instr.wrRegStartrender 0x010 0 0).wellFormed defaultMap = false := by decide
theorem test_wf_listInit_refused : (Instr.wrRegTaListInit 0x148 0 0).wellFormed defaultMap = false := by decide
theorem test_wf_listCont_refused : (Instr.wrRegTaListCont 0x144 0 0).wellFormed defaultMap = false := by decide
theorem test_wf_yuvBase_refused : (Instr.wrRegTaYuvTexBase 0x144 0 0).wellFormed defaultMap = false := by decide
theorem test_wf_spgLoad_refused : (Instr.wrRegSpgLoad 0x0DC 0 0).wellFormed defaultMap = false := by decide
theorem test_wf_fbRCtrl_refused : (Instr.wrRegFbRCtrl 0x048 0 0).wellFormed defaultMap = false := by decide
theorem test_wf_plain_refused : (Instr.wrReg 0x000 0 0).wellFormed defaultMap = false ∧ (Instr.wrReg 0x0DB 0 0).wellFormed defaultMap = false := by
  decide

/-! ### Decoding: for every constructor a transaction written out from R72 to R76 and the opcode table's match bits -/

theorem test_decode_registers :
    decode defaultMap (.regRd 0x00000000 0xFFFFFFFF) = .ok (.rdReg 0x00000000 0xFFFFFFFF) ∧
    decode defaultMap (.regWr 0x00000000 0 0xFFFFFFFF) = .ok (.wrRegId 0x00000000 0 0xFFFFFFFF) ∧
    decode defaultMap (.regWr 0x00000008 1 0xFFFFFFFF) = .ok (.wrRegSoftreset 0x00000008 1 0xFFFFFFFF) ∧
    decode defaultMap (.regWr 0x00000014 1 0xFFFFFFFF) = .ok (.wrRegStartrender 0x00000014 1 0xFFFFFFFF) ∧
    decode defaultMap (.regWr 0x00000144 0x80000000 0xFFFFFFFF) = .ok (.wrRegTaListInit 0x00000144 0x80000000 0xFFFFFFFF) ∧
    decode defaultMap (.regWr 0x00000160 0x80000001 0xFFFFFFFF) = .ok (.wrRegTaListCont 0x00000160 0x80000001 0xFFFFFFFF) := by
  decide

theorem test_decode_registers_stored :
    decode defaultMap (.regWr 0x00000148 0x00100000 0xFF) = .ok (.wrRegTaYuvTexBase 0x00000148 0x00100000 0xFF) ∧
    decode defaultMap (.regWr 0x000000D8 0x01060359 0xFFFFFFFF) = .ok (.wrRegSpgLoad 0x000000D8 0x01060359 0xFFFFFFFF) ∧
    decode defaultMap (.regWr 0x00000044 0x00800001 0xFFFFFFFF) = .ok (.wrRegFbRCtrl 0x00000044 0x00800001 0xFFFFFFFF) ∧
    decode defaultMap (.regWr 0x000000DC 0x0014000A 0xFFFFFFFF) = .ok (.wrReg 0x000000DC 0x0014000A 0xFFFFFFFF) ∧
    decode defaultMap (.regWr 0x00001FFC 5 0xFFFFFFFF) = .ok (.wrReg 0x00001FFC 5 0xFFFFFFFF) ∧
    decode defaultMap (.regWr 0x00002000 5 0xFFFFFFFF) = .ok (.wrReg 0x00002000 5 0xFFFFFFFF) := by
  decide

/-- Bits 1:0 of the address are no part of the key (R72). -/
theorem test_decode_low_bits_ignored :
    decode defaultMap (.regWr 0x000000DB 1 2) = .ok (.wrRegSpgLoad 0x000000DB 1 2) ∧
    decode defaultMap (.regWr 0x000000DC 1 2) = .ok (.wrReg 0x000000DC 1 2) := by decide

theorem test_decode_v32 :
    decode defaultMap (.v32Rd 0x1000 0x00000000000000FF) = .ok (.rdV32x1 0x1000) ∧
    decode defaultMap (.v32Rd 0x1000 0x000000000000FFFF) = .ok (.rdV32x2 0x1000) ∧
    decode defaultMap (.v32Rd 0x1000 0x00000000FFFFFFFF) = .ok (.rdV32x4 0x1000) ∧
    decode defaultMap (.v32Rd 0x1000 0xFFFFFFFFFFFFFFFF) = .ok (.rdV32x8 0x1000) ∧
    decode defaultMap (.v32Wr 0x1000 0x00000000000000FF 0x1122334455667788) = .ok (.wrV32x1 0x1000 0x88) ∧
    decode defaultMap (.v32Wr 0x1000 0x000000000000FFFF 0x1122334455667788) = .ok (.wrV32x2 0x1000 0x7788) ∧
    decode defaultMap (.v32Wr 0x1000 0x00000000FFFFFFFF 0x1122334455667788) = .ok (.wrV32x4 0x1000 0x55667788) ∧
    decode defaultMap (.v32Wr 0x1000 0xFFFFFFFFFFFFFFFF 0x1122334455667788) = .ok (.wrV32x8 0x1000 0x1122334455667788) := by
  decide

theorem test_decode_v64 :
    decode defaultMap (.v64Rd 0x2000 0x00000000000000FF) = .ok (.rdV64x1 0x2000) ∧
    decode defaultMap (.v64Rd 0x2000 0x000000000000FFFF) = .ok (.rdV64x2 0x2000) ∧
    decode defaultMap (.v64Rd 0x2000 0x00000000FFFFFFFF) = .ok (.rdV64x4 0x2000) ∧
    decode defaultMap (.v64Rd 0x2000 0xFFFFFFFFFFFFFFFF) = .ok (.rdV64x8 0x2000) ∧
    decode defaultMap (.v64Wr 0x2000 0x00000000000000FF 0x1122334455667788) = .ok (.wrV64x1 0x2000 0x88) ∧
    decode defaultMap (.v64Wr 0x2000 0x000000000000FFFF 0x1122334455667788) = .ok (.wrV64x2 0x2000 0x7788) ∧
    decode defaultMap (.v64Wr 0x2000 0x00000000FFFFFFFF 0x1122334455667788) = .ok (.wrV64x4 0x2000 0x55667788) ∧
    decode defaultMap (.v64Wr 0x2000 0xFFFFFFFFFFFFFFFF 0x1122334455667788) = .ok (.wrV64x8 0x2000 0x1122334455667788) := by
  decide

theorem test_decode_operations :
    decode defaultMap .tick = .ok .tick ∧ decode defaultMap .reset = .ok .reset ∧ decode defaultMap .teardown = .ok .teardown ∧
    decode defaultMap .vsize = .ok .vsize := by decide

/-- The opcode table's words (log 15) through the decoder: match bits of five rows. -/
theorem test_table_words :
    decodeTableWord 32 0x00000014 = some (.wrRegStartrender 0x14 0 0) ∧
    decodeTableWord 32 0x000000D8 = some (.wrRegSpgLoad 0xD8 0 0) ∧
    decodeTableWord 64 0x00000000FFFFFFFF = some (.rdV32x4 0) ∧ decodeTableWord 64 0xFFF = none ∧
    decodeTableWord 8 0 = some .tick := by decide

/-- A table word is what the very next step runs. -/
theorem test_fetch_runs_first :
    stepped (State.reset.withFetchWord 32 0x00000014) (fun t => t.reply == .done && t.inbox == []) = true ∧
    stepped (State.reset.withFetchWord 64 0xFF) (fun t => t.reply == .value 1 0) = true ∧
    stepped (State.reset.withFetchWord 8 0) (fun t => t.currentLine == 1 && t.now == 63556) = true := by decide

/-! ### Registers (95_test_vectors.md, Part 2, register reads and writes) -/

theorem test_rdReg :
    ran (.rdReg 0x0D9 0xFF) start (fun t => t.reply == .word 0x01060359) = true ∧
    ran (.rdReg 0x1FFC 0xFFFFFFFF) start (fun t => t.reply == .word 0) = true ∧
    ran (.rdReg 0x2000 0xFFFFFFFF) start (fun t => t.fault == some (.regRange 0x2000)) = true := by decide

theorem test_wrRegId :
    ran (.wrRegId 0 0xFFFFFFFF 0xFF) start (fun t => t.reg 0 == 0x17FD11DB && t.trace == []) = true := by decide

theorem test_wrRegSoftreset :
    ran (.wrRegSoftreset 8 0xFFFFFFFF 0) start (fun t => t.reg 2 == 7 && t.trace == [.pipelineReset]) = true ∧
    ran (.wrRegSoftreset 8 6 0) start (fun t => t.reg 2 == 7 && t.trace == []) = true := by decide

theorem test_wrRegTaListInit :
    ran (.wrRegTaListInit 0x144 0x7FFFFFFF 0) start (fun t => t.trace == []) = true ∧
    ran (.wrRegTaListInit 0x144 0x80000000 0) start (fun t => t.reg 81 == 0 && t.trace == [.pipelineListInit]) = true := by
  decide

theorem test_wrRegTaListCont :
    ran (.wrRegTaListCont 0x160 0x80000001 0) start (fun t => t.reg 88 == 0 && t.trace == [.pipelineListCont]) = true ∧
    ran (.wrRegTaListCont 0x160 0 0) start (fun t => t.trace == []) = true := by decide

theorem test_wrRegTaYuvTexBase :
    ran (.wrRegTaYuvTexBase 0x148 0x00100000 0) start
      (fun t => t.reg 82 == 0x00100000 && t.trace == [.pipelineYuvInit]) = true := by decide

theorem test_wrRegSpgLoad :
    ran (.wrRegSpgLoad 0x0D8 0x01060359 0) { start with now := 1000 }
      (fun t => t.linePeriodNs == 63556 && t.trace == [.timerCancel, .timerArm 64556]) = true := by decide

theorem test_wrRegFbRCtrl :
    ran (.wrRegFbRCtrl 0x044 0x00800001 0) { start with now := 1000 }
      (fun t => t.linePeriodNs == 31778 && t.trace == [.timerCancel, .timerArm 32778]) = true := by decide

theorem test_wrReg_verbatim :
    ran (.wrReg 0x004 0x12345678 0xFF) start (fun t => t.reg 1 == 0x12345678 && t.trace == []) = true := by decide

theorem test_wrReg_merge :
    ran (.wrReg 0x004 0x12345678 0xFF) { start with config := { defaultConfig with maskedWriteMode := .merge } }
      (fun t => t.reg 1 == 0x00000078) = true := by decide

/-- REGMAP and NUM_REGS are parameters (R5): `SPG_LOAD` at 0x200 and a register file of 256 words. -/
def movedMap : RegisterMap := ⟨256, [(.spgLoad, 0x200)], [], by decide⟩

theorem test_moved_register_map :
    decode movedMap (.regWr 0x200 5 0) = .ok (.wrRegSpgLoad 0x200 5 0) ∧
    decode movedMap (.regWr 0x0D8 5 0) = .ok (.wrReg 0x0D8 5 0) ∧
    (Instr.wrRegSpgLoad 0x0D8 5 0).wellFormed movedMap = false ∧
    ran (.rdReg 0x400 0) { start with config := { defaultConfig with regMap := movedMap, clockInRange := by decide } }
      (fun t => t.fault == some (.regRange 0x400)) = true := by decide

/-! ### Start-render (Part 2, marking) -/

/-- Both bases at 0: the last candidate word is at linear 5120, and the word after it is untouched. -/
theorem test_wrRegStartrender :
    ran (.wrRegStartrender 0x14 1 0) start
      (fun t => t.linRead32 0x1400 == .ok 0xDEADBEEF && t.linRead32 0x1404 == .ok 0 && t.gotStartrender &&
        t.trace == [.pipelineStartRender] && t.reg 5 == 0) = true := by decide +kernel

/-- A base of 0x7F_F000 runs out of range at candidate 5120, after candidate 3840 was marked. -/
theorem test_wrRegStartrender_out_of_range :
    ran (.wrRegStartrender 0x14 1 0) (State.withReg start .fbWSof1 0x7FF000)
      (fun t => t.fault == some (.vramRange 0x800400) && t.linRead32 0x7FFF00 == .ok 0xDEADBEEF && !t.gotStartrender &&
        t.linRead32 0 == .ok 0) = true := by decide

/-! ### VRAM (20_memory.md R54; 41_vram_access.md; Part 2) -/

theorem test_map32 :
    map32 0x123456 = 0x2468AA ∧ map32 0x3FFFFC = 0x7FFFF8 ∧ map32 0x400000 = 0x000004 ∧ map32 0x5ABCDE = 0x3579BE ∧
    map32 0x7FFFFF = 0x7FFFFF ∧ unmap32 0x2468AA = 0x123456 := by decide

theorem test_wrV32x1 : ran (.wrV32x1 0x7FFFFF 0xAB) start (fun t => t.vramByte 0x7FFFFF == 0xAB) = true := by decide

theorem test_wrV32x2 :
    ran (.wrV32x2 0x400002 0xF800) start (fun t => t.vramByte 6 == 0 && t.vramByte 7 == 0xF8) = true := by decide

theorem test_wrV32x4 :
    ran (.wrV32x4 0x400000 0x11223344) start (fun t => t.vramByte 4 == 0x44 && t.vramByte 7 == 0x11 && t.vramByte 0 == 0) =
      true := by decide

theorem test_wrV32x8 :
    ran (.wrV32x8 0x1000 0x8877665544332211) start
      (fun t => t.vramByte 0x2003 == 0x44 && t.vramByte 0x2008 == 0x55 && t.vramByte 0x2004 == 0) = true := by decide

theorem test_wrV64x1 : ran (.wrV64x1 0x203 0xDE) start (fun t => t.vramByte 0x203 == 0xDE) = true := by decide

theorem test_wrV64x2 :
    ran (.wrV64x2 0x102 0xBEEF) start (fun t => t.vramByte 0x102 == 0xEF && t.vramByte 0x103 == 0xBE) = true := by decide

theorem test_wrV64x4 :
    ran (.wrV64x4 0x8 0xCAFEF00D) start (fun t => t.linRead32 4 == .ok 0xCAFEF00D) = true := by decide

theorem test_wrV64x8 :
    ran (.wrV64x8 0x7FFFF8 0x1122334455667788) start
      (fun t => t.linRead32 0x3FFFFC == .ok 0x55667788 && t.linRead32 0x7FFFFC == .ok 0x11223344) = true := by decide

/-- Linear 0x1000 holds 0x44332211 and linear 0x1004 holds 0x88776655. -/
def twoWords : State := State.withWord (State.withWord start 0x1000 0x44332211) 0x1004 0x88776655

theorem test_rdV32 :
    ran (.rdV32x1 0x1001) twoWords (fun t => t.reply == .value 1 0x22) = true ∧
    ran (.rdV32x2 0x1006) twoWords (fun t => t.reply == .value 2 0x8877) = true ∧
    ran (.rdV32x4 0x1004) twoWords (fun t => t.reply == .value 4 0x88776655) = true ∧
    ran (.rdV32x8 0x1000) twoWords (fun t => t.reply == .value 8 0x8877665544332211) = true := by decide

theorem test_rdV64 :
    ran (.rdV64x1 0x200B) twoWords (fun t => t.reply == .value 1 0x88) = true ∧
    ran (.rdV64x2 0x2002) twoWords (fun t => t.reply == .value 2 0x4433) = true ∧
    ran (.rdV64x4 0x2008) twoWords (fun t => t.reply == .value 4 0x88776655) = true ∧
    ran (.rdV64x8 0x2000) twoWords (fun t => t.reply == .value 8 0x44332211) = true := by decide

theorem test_guest_faults :
    ran (.rdV32x2 0x3) start (fun t => t.fault == some (.misaligned 0x3)) = true ∧
    ran (.rdV64x8 0x7FFFFC) start (fun t => t.fault == some (.misaligned 0x7FFFFC)) = true ∧
    ran (.rdV64x8 0x7FFFF8) start (fun t => t.reply == .value 8 0) = true ∧
    ran (.rdV32x1 0x800000) start (fun t => t.fault == some (.vramRange 0x800000)) = true ∧
    stepped { start with inbox := [⟨0, true, .bus (.v32Rd 1 0xFFF)⟩] }
      (fun t => t.fault == some (.badMask 0xFFF)) = true := by decide

/-! ### The tick (Part 2, SPG tick) -/

theorem test_tick_to_line_260 :
    ran .tick (due start 259 false) (fun t => t.currentLine == 260 && t.reg 67 == 0x00002104 && t.trace ==
      [.raise 3, .counterAdd "pvr_vblanks" 1, .vblankIn true, .timerArm 127112]) = true := by decide

theorem test_tick_wraps :
    ran .tick (due start 262 true) (fun t => t.currentLine == 0 && t.trace ==
      [.raise 5, .vblankOut, .timerArm 127112]) = true := by decide

/-! ### Extraction (Part 1, property 7; Part 2) -/

/-- Property 7, depth 1, the word 0x001F_F800 at linear 0, the tick to line 260 due. -/
def direct : State :=
  due (State.withWord (State.withReg (State.withReg start .fbRCtrl 5) .fbRSize 0x00100000) 0 0x001FF800) 259 false

/-- The frame of property 7's first row. -/
def directFrame : Frame := ⟨[0xF8, 0x00, 0x00, 0x00, 0x00, 0xF8], 2, 1⟩

theorem test_extract :
    ran .tick direct (fun t => t.fbOut == some directFrame && t.trace == [.raise 3, .counterAdd "pvr_vblanks" 1,
      .pushFrame directFrame, .vblankIn true, .timerArm 127112]) = true := by decide

/-- The interlaced row of Part 2: row 0 from the first field, row 1 from the second. -/
theorem test_extract_interlaced :
    (State.withWord (State.withWord (State.withReg (State.withReg (State.withReg (State.withReg (State.withReg start
      .fbRCtrl 5) .fbRSize 0x00100000) .spgControl 0x10) .fbRSof1 0x100) .fbRSof2 0x200) 0x100 0x001FF800) 0x200
      0x07E0FFFF).readFrame =
    .ok ⟨[0xF8, 0, 0, 0, 0, 0xF8, 0xF8, 0xFC, 0xF8, 0, 0xFC, 0], 2, 2⟩ := by decide

/-- The other depths of property 7. -/
theorem test_pixels :
    (State.withWord start 0 0x80007FFF).convertPixel 0 0 = .ok [0xF8, 0xF8, 0xF8] ∧
    (State.withWord start 0 0x80007FFF).convertPixel 0 2 = .ok [0, 0, 0] ∧
    (State.withWord (State.withWord start 0 0x44332211) 4 0x88776655).convertPixel 2 3 = .ok [0x66, 0x55, 0x44] ∧
    (State.withWord start 0 0xAA112233).convertPixel 3 0 = .ok [0x11, 0x22, 0x33] := by decide

/-! ### Size, reset, teardown (Part 2) -/

/-- 640 by 480 at depth 1. -/
def vga : State := State.withReg (State.withReg start .fbRCtrl 4) .fbRSize 0x00077D3F

/-- The scaler at 0x0003_0800 under each law, and the factor 0 under the second. -/
theorem test_vsize :
    ran .vsize (State.withReg vga .scalerCtl 0x00030800) (fun t => t.reply == .size 1280 480) = true ∧
    ran .vsize { State.withReg vga .scalerCtl 0x00030800 with config := { defaultConfig with vscaleLaw := .divShl10 } }
      (fun t => t.reply == .size 1280 120) = true ∧
    ran .vsize { State.withReg vga .scalerCtl 0 with config := { defaultConfig with vscaleLaw := .divShl10 } }
      (fun t => t.fault == some .vscaleZero) = true := by decide

theorem test_reset :
    ran .reset { start with now := 1000, timer := none, fault := some (.hblankMode 1), currentLine := 1, live := false }
      (fun t => t.fault == none && t.live && t.currentLine == 0 && t.trace == [.timerArm 64556] &&
        t.regs == regResetTable) = true := by decide

theorem test_teardown :
    ran .teardown start (fun t => t.trace == [.timerCancel] && !t.live && t.timer == none) = true ∧
    ran .teardown { start with live := false, timer := none } (fun t => t.reply == .noStep && t.trace == []) = true := by
  decide

/-! ### Witnesses: for each obligation with hypotheses, states and operands that meet them, at the boundaries -/

/-- An operation's next state, given outright. -/
def post (i : Instr) (s : State) : State :=
  match exec i s with
  | .next t => t
  | _ => s

theorem test_witness_EncodeThenDecodeReturnsInstruction :
    (Instr.wrReg 0x1FFF 5 0).wellFormed defaultMap = true ∧ (Instr.wrReg 0x2000 5 0).wellFormed defaultMap = true ∧
    (Instr.wrRegSpgLoad 0x0DB 1 2).wellFormed defaultMap = true := by decide

theorem test_witness_DecodedInstructionIsWellFormedAndComplete :
    decode defaultMap (.v32Wr 0x1000 0xFFFF 0x12345678) = .ok (.wrV32x2 0x1000 0x5678) ∧
    decode defaultMap (.v64Wr 0x1000 0xFF 0x12345678) = .ok (.wrV64x1 0x1000 0x78) ∧
    decode defaultMap (.regRd 0xFFFFFFFF 0) = .ok (.rdReg 0xFFFFFFFF 0) := by decide

theorem test_witness_RegisterTransactionsDecodeInRowOrder :
    start.accepts = true ∧ start.config.regMap.numRegs ≤ (0x2000 : Word).toNat / 4 ∧
    start.config.regMap.numRegs ≤ (0xFFFFFFFF : Word).toNat / 4 ∧
    ¬ start.config.regMap.numRegs ≤ (0x1FFF : Word).toNat / 4 := by decide

theorem test_witness_VramMaskSelectsWidthOrIsRefused :
    start.accepts = true ∧ ∀ m ∈ ([0, 0xFE, 0x100, 0xFFF, 0xFFFFFFFFFFFFFFFE] : List DWord),
      m ∉ ([0xFF, 0xFFFF, 0xFFFFFFFF, 0xFFFFFFFFFFFFFFFF] : List DWord) := by
  refine ⟨by decide, fun m hm => ?_⟩
  simp only [List.mem_cons, List.not_mem_nil, or_false] at hm
  rcases hm with rfl | rfl | rfl | rfl | rfl <;> simp

theorem test_witness_StepRunsTheDecodedMove :
    (∀ d, ({ start with inbox := [⟨63556, true, .bus .vsize⟩] } : State).pendingTick = some d →
      ({ start with inbox := [⟨63556, true, .bus .vsize⟩] } : State).goesFirst ⟨63556, true, .bus .vsize⟩ d = true) ∧
    decode defaultMap .vsize = .ok .vsize ∧
    (∀ d, ({ start with inbox := [⟨0, true, .memoryWrite 0x7FFFFF 1⟩] } : State).pendingTick = some d →
      ({ start with inbox := [⟨0, true, .memoryWrite 0x7FFFFF 1⟩] } : State).goesFirst
        ⟨0, true, .memoryWrite 0x7FFFFF 1⟩ d = true) ∧
    0x7FFFFF < 0x800000 ∧
    (∀ d, ({ start with inbox := [⟨0, true, .bus (.v32Rd 1 0xFFF)⟩] } : State).pendingTick = some d →
      ({ start with inbox := [⟨0, true, .bus (.v32Rd 1 0xFFF)⟩] } : State).goesFirst
        ⟨0, true, .bus (.v32Rd 1 0xFFF)⟩ d = true) ∧
    decode start.config.regMap (.v32Rd 1 0xFFF) = .error (.badMask 0xFFF) := by
  refine ⟨fun d h => ?_, by decide, fun d h => ?_, by decide, fun d h => ?_, by decide⟩ <;> (cases h; decide)

theorem test_witness_StepFiresTheTimerAtItsDeadline :
    start.accepts = true ∧ start.timer = some 63556 ∧ start.now ≤ 63556 ∧ start.inbox = [] ∧
    63556 < (⟨63557, true, .bus .vsize⟩ : Request).time ∧
    (max start.now (⟨63556, false, .bus .reset⟩ : Request).time = 63556 ∧
      (⟨63556, false, .bus .reset⟩ : Request).beforeTick = false) := by decide

theorem test_witness_MoveAtTheDeadlineRunsBeforeOrAfterTheTick :
    start.accepts = true ∧ start.timer = some 63556 ∧ start.now ≤ 63556 ∧
    (∀ b ∈ [true, false], (⟨63556, b, .bus .vsize⟩ : Request).time = 63556 ∧
      (⟨63556, b, .bus .vsize⟩ : Request).move ≠ .bus .tick) := by decide

/-- A faulted block whose timer is still armed, and a `RESET` issued long after its deadline (R130, R136). -/
def held : State := { start with fault := some .vscaleZero, inbox := [⟨100000, true, .bus .reset⟩] }

theorem test_witness_VirtualTimeRespectsTheDeadline :
    (∃ t, step start = .next t) ∧ start.timer = some 63556 ∧ start.now ≤ 63556 ∧ (∃ t, step held = .next t) ∧
    held.accepts = false ∧ held.timer = some 63556 ∧ held.now ≤ 63556 ∧
    63556 ≤ (⟨100000, true, .bus .reset⟩ : Request).time :=
  ⟨⟨_, rfl⟩, rfl, by decide, ⟨_, rfl⟩, by decide, rfl, by decide, by decide⟩

/-- R146 without an exception: that `RESET` is made at the held deadline (log 26), and arms the next timer from there. -/
theorem test_fault_holds_time_at_the_deadline :
    stepped held (fun t => t.now == 63556 && t.fault == none && t.timer == some 127112) = true := by decide

theorem test_witness_FaultedOrTornDownBlockTakesNoStep :
    ({ start with fault := some .vscaleZero } : State).fault ≠ none ∧ Instr.tick ≠ .reset ∧ Instr.tick ≠ .teardown ∧
    ({ start with live := false } : State).live = false := by decide

theorem test_witness_FieldsReadTheirBits : start.config.regMap = defaultMap := by decide

theorem test_witness_FieldWriteReplacesOnlyItsBits :
    1 < (defaultMap.bits .fbDepth).lo ∧ (defaultMap.bits .fbDepth).hi < 4 ∧
    fieldOf (defaultMap.bits .fbDepth) (withField (defaultMap.bits .fbDepth) 7 0) = 3 ∧
    withField (defaultMap.bits .fbDepth) 0 0xFFFFFFFF = 0xFFFFFFF3 := by decide

theorem test_witness_TheReplySaysHowTheOperationEnded :
    ran .vsize { start with live := false } (fun t => t.reply == .noStep) = true ∧
    ran (.rdReg 0x2000 0) start (fun t => t.reply == .faulted && t.fault != none) = true ∧ start.fault = none ∧
    ran .reset start (fun t => t.reply == .done) = true := by decide

/-- A state of a run, not the reset state: a tick later, a byte written, a frame kept, start-render triggered. -/
def later : State :=
  { State.reset with
    now := 63556, currentLine := 1, timer := some 127112, vram := [(7, 1)], gotStartrender := true,
    fbOut := some directFrame, trace := [.timerArm 63556, .pushFrame directFrame, .pipelineStartRender] }

theorem test_witness_later_meets_the_invariant : later.Inv :=
  ⟨by decide, by decide, by decide, by decide, by decide, by decide, by decide, by decide, by decide,
    fun _ => ⟨127112, rfl⟩, fun d h => by cases h; decide, fun f h => by cases h; rfl, by decide⟩

theorem test_witness_RegisterReadReturnsTheStoredWord :
    later.Inv ∧ later.accepts = true ∧ (0x1FFF : Word).toNat / 4 < later.config.regMap.numRegs ∧
    ([0x000, 0x008, 0x014, 0x144, 0x163] : List Word).map (fun a => a.toNat / 4) =
      ([.id, .softreset, .startrender, .taListInit, .taListCont] : List RegName).map later.off :=
  ⟨test_witness_later_meets_the_invariant, by decide, by decide, by decide⟩

theorem test_witness_IdWriteIsIgnored : start.accepts = true := by decide

/-- The start state under the second register-write mode. -/
def merging : State := { start with config := { defaultConfig with maskedWriteMode := .merge } }

theorem test_witness_PlainRegisterWriteStores :
    start.accepts = true ∧ start.config.maskedWriteMode = .verbatim ∧ merging.accepts = true ∧
    merging.config.maskedWriteMode = .merge ∧ (0x1FFC : Word).toNat / 4 < start.config.regMap.numRegs ∧
    (Instr.wrReg 0x1FFC 1 1).wellFormed defaultMap = true := by decide

theorem test_witness_TriggerWritesCallThePipelineAndNeverStore :
    start.accepts = true ∧ (1 : Word).getLsbD 0 = true ∧ (6 : Word).getLsbD 0 = false ∧
    (0x80000000 : Word).getLsbD 31 = true ∧ (0x7FFFFFFF : Word).getLsbD 31 = false := by decide

theorem test_witness_YuvBaseWriteStoresThenNotifies :
    start.accepts = true ∧ start.config.maskedWriteMode = .verbatim ∧ merging.accepts = true ∧
    merging.config.maskedWriteMode = .merge := by decide

theorem test_witness_TimingRegisterWritesReconfigure :
    start.accepts = true ∧ start.config.maskedWriteMode = .verbatim ∧ merging.accepts = true ∧
    merging.config.maskedWriteMode = .merge ∧ start.timer ≠ none ∧ ({ start with timer := none } : State).timer = none := by
  decide

/-- The timing registers of a row of the timing table. -/
def timed (load ctrl spg : Word) : State :=
  State.withReg (State.withReg (State.withReg start .spgLoad load) .fbRCtrl ctrl) .spgControl spg

theorem test_witness_LinePeriodsOfTheTimingTable :
    (timed 0x359 0 0).get .hcount = 857 ∧ (timed 0x35F 0 0x10).get .hcount = 863 ∧ (timed 0 0x800000 0x10).get .hcount = 0 ∧
    (timed 0 0x800000 0x10).get .vclkDiv = 1 ∧ (timed 0 0x800000 0x10).get .interlace = 1 ∧
    (timed 0x359 0 0).get .vclkDiv = 0 ∧ (timed 0x359 0 0).get .interlace = 0 ∧
    start.config.pixelClockBaseHz = 13500000 := by decide

/-- A base whose highest candidate is the last word of VRAM: every marked byte is in range. -/
def topBase : State := State.withReg start .fbWSof1 0x7FEBFC

/-- The four bytes of each word of a list may be accessed: the check as a computation. -/
theorem allowed_of_all {c : Config} {l : List Word}
    (h : (l.all fun a => (List.range 4).all fun i => addrAllowed c (a + BitVec.ofNat 32 i)) = true) :
    ∀ a ∈ l, ∀ i < 4, addrAllowed c (a + BitVec.ofNat 32 i) = true :=
  fun a ha i hi => List.all_eq_true.1 (List.all_eq_true.1 h a ha) i (List.mem_range.2 hi)

theorem test_witness_StartRenderMarksThenSetsTheFlag :
    topBase.accepts = true ∧ (1 : Word) ≠ 0 ∧
    (∀ a ∈ markTargets topBase.config (topBase.word .fbWSof1) ++ markTargets topBase.config (topBase.word .fbWSof2),
      ∀ i < 4, addrAllowed topBase.config (a + BitVec.ofNat 32 i) = true) :=
  ⟨by decide, by decide, allowed_of_all (by decide +kernel)⟩

theorem test_witness_AlignedMarksReadAsTheSentinel :
    (∀ a ∈ markTargets start.config (start.word .fbWSof1) ++ markTargets start.config (start.word .fbWSof2),
      a.toNat % 4 = 0) ∧
    ran (.wrRegStartrender 0x14 1 0) start (fun t => t.fault == none) = true ∧
    start.word .fbRSof1 ∈ markTargets start.config (start.word .fbWSof1) ++
      markTargets start.config (start.word .fbWSof2) := by
  have h : ((markTargets start.config (start.word .fbWSof1) ++ markTargets start.config (start.word .fbWSof2)).all
      fun a => a.toNat % 4 == 0) = true := by decide +kernel
  have h' : ((markTargets start.config (start.word .fbWSof1) ++ markTargets start.config (start.word .fbWSof2)).contains
      (start.word .fbRSof1)) = true := by decide +kernel
  exact ⟨fun a ha => beq_iff_eq.1 (List.all_eq_true.1 h a ha), by decide +kernel, List.contains_iff_mem.1 h'⟩

/-- At an aligned base the word itself is out of range; at 0x7F_FFFE the first word runs out at its third byte. -/
theorem test_witness_OutOfRangeMarkStopsStartRender :
    markTargets defaultConfig 0x7FF000 = [0x7FF000, 0x7FF500, 0x7FFA00, 0x7FF780, 0x7FFF00, 0x7FFA00] ++ 0x800400 ::
      [0x7FF280, 0x7FF500, 0x7FF3C0, 0x7FF780, 0x7FF500, 0x7FFA00] ∧
    (∀ b ∈ ([0x7FF000, 0x7FF500, 0x7FFA00, 0x7FF780, 0x7FFF00, 0x7FFA00] : List Word),
      ∀ i < 4, addrAllowed defaultConfig (b + BitVec.ofNat 32 i) = true) ∧
    addrAllowed defaultConfig 0x800400 = false ∧
    (∀ j < 2, addrAllowed defaultConfig ((0x7FFFFE : Word) + BitVec.ofNat 32 j) = true) ∧
    addrAllowed defaultConfig ((0x7FFFFE : Word) + BitVec.ofNat 32 2) = false :=
  ⟨by decide, allowed_of_all (by decide +kernel), by decide, by decide, by decide⟩

theorem test_witness_DefaultMarkTargetsAreTheTwelveCandidates :
    (0x01000000 : Word).getLsbD 24 = true ∧ (0x02FFFFFF : Word).getLsbD 24 = false := by decide

theorem test_witness_TranslatorIsItsFormulaAndABijection : (0x7FFFFF : Word).toNat < 0x800000 := by decide

theorem test_witness_BankWordsInterleaveEveryFourBytes :
    map32 (BitVec.ofNat 32 (4 * (2 ^ 20 - 1) + 3)) = BitVec.ofNat 32 (8 * (2 ^ 20 - 1) + 3) ∧
    map32 0x7FFFFF = 0x7FFFFF ∧ (0x7FFFFF : Word).toNat < 0x800000 := by decide

/-- The start state under the wrapping policy. -/
def wrapping : State := { start with config := { defaultConfig with oorPolicy := .wrap } }

/-- R57 at the top of the view and past it: byte 5 of the buffer, and the last. -/
theorem test_addresses_wrap :
    vramIndex .v64 0x800005 = 5 ∧ vramIndex .v32 0x800005 = 9 ∧ vramIndex .v32 0xFFFFFFFF = 0x7FFFFF ∧
    addrAllowed start.config 0x7FFFFF = true ∧ addrAllowed start.config 0x800000 = false ∧
    addrAllowed wrapping.config 0x800000 = true := by decide

theorem test_witness_GuestReadReturnsLittleEndianBytes :
    start.accepts = true ∧ wrapping.accepts = true ∧ wrapping.config.oorPolicy = .wrap ∧
    (∀ p ∈ readRows 0x7FFFF8, (0x7FFFF8 : Word).toNat % p.2.1 = 0 ∧ (0x7FFFF8 : Word).toNat + p.2.1 ≤ 0x800000) ∧
    (∀ p ∈ readRows 0xFFFFFFF8, (0xFFFFFFF8 : Word).toNat % p.2.1 = 0) := by decide

theorem test_witness_GuestWriteStoresItsBytesAndNothingElse :
    start.accepts = true ∧ wrapping.accepts = true ∧ wrapping.config.oorPolicy = .wrap ∧
    (∀ p ∈ writeRows 0x7FFFF8 0x0102030405060708, (0x7FFFF8 : Word).toNat % p.2.1 = 0 ∧
      (0x7FFFF8 : Word).toNat + p.2.1 ≤ 0x800000) := by decide

theorem test_witness_GuestAccessFaultsBeforeAnyByteMoves :
    start.accepts = true ∧ start.config.oorPolicy = .fault ∧
    (∀ p ∈ readRows 0x800000 ++ writeRows 0x800000 0,
      (0x800000 : Word).toNat % p.2.1 = 0 ∧ 0x800000 ≤ (0x800000 : Word).toNat) ∧
    (∀ p ∈ readRows 1 ++ writeRows 1 0, p.2.1 = 1 ∨ (1 : Word).toNat % p.2.1 ≠ 0) := by decide

theorem test_witness_TheTwoViewsAgree :
    (0x7FFFFF : Word).toNat < 0x800000 ∧ start.accepts = true ∧ (∃ t, exec (.wrV32x1 0x7FFFFF 0xAB) start = .next t) ∧
    (∃ t, exec (.wrV64x1 (map32 0x7FFFFF) 0xAB) start = .next t) :=
  ⟨by decide, by decide, ⟨_, rfl⟩, ⟨_, rfl⟩⟩

theorem test_witness_TickHappensOnlyAtItsDeadline :
    start.timer ≠ some start.now ∧ ({ start with timer := none } : State).timer ≠ some start.now := by decide

/-- Each mode at a tick that is due. -/
theorem test_witness_EveryTickAdvancesTheLineThenStopsOrRaisesItsInterrupts :
    ∀ e ∈ ([(0x0000, 0), (0x1000, 1), (0x2000, 2), (0x3000, 3)] : List (Word × Nat)),
      (due (State.withReg start .spgHblankInt e.1) 0 false).accepts = true ∧
      (due (State.withReg start .spgHblankInt e.1) 0 false).timer = some 63556 ∧
      (due (State.withReg start .spgHblankInt e.1) 0 false).get .hblankIntMode = e.2 := by decide

/-- The tick to line 1 from reset, and one in mode 2 under the wraparound window. -/
theorem test_witness_TickWithoutEdge :
    (due start 0 false).accepts = true ∧ (due start 0 false).timer = some (due start 0 false).now ∧
    (due start 0 false).get .hblankIntMode ∈ ([0, 2] : List Nat) ∧
    ((due start 0 false).vsync = true ↔ (due start 0 false).vsyncAt (due start 0 false).nextLine) ∧
    (due (State.withReg start .spgHblankInt 0x2000) 0 false).get .hblankIntMode ∈ ([0, 2] : List Nat) ∧
    ((due (State.withReg start .spgVblank 0x00050190) 3 true).vsync = true ↔
      (due (State.withReg start .spgVblank 0x00050190) 3 true).vsyncAt 4) := by
  unfold State.vsyncAt
  decide

theorem test_witness_TickOnTheFallingEdge :
    (due start 262 true).accepts = true ∧ (due start 262 true).timer = some (due start 262 true).now ∧
    (due start 262 true).get .hblankIntMode ∈ ([0, 2] : List Nat) ∧ (due start 262 true).vsync = true ∧
    ¬ (due start 262 true).vsyncAt (due start 262 true).nextLine := by
  unfold State.vsyncAt
  decide

/-- The three ways not to extract: start-render triggered, a clean region, reading not enabled. -/
theorem test_witness_TickOnTheRisingEdgeWithoutExtraction :
    direct.accepts = true ∧ direct.timer = some direct.now ∧ direct.get .hblankIntMode ∈ ([0, 2] : List Nat) ∧
    direct.vsync = false ∧ direct.vsyncAt direct.nextLine ∧
    ({ direct with gotStartrender := true } : State).gotStartrender = true ∧
    (State.withWord direct 0 0xDEADBEEF).dirty = .ok false ∧
    ((due start 259 false).dirty = .ok true ∧ (due start 259 false).get .fbEnable = 0) := by
  unfold State.vsyncAt
  decide

theorem test_witness_TickOnTheRisingEdgePushesTheFrame :
    direct.accepts = true ∧ direct.timer = some direct.now ∧ direct.get .hblankIntMode ∈ ([0, 2] : List Nat) ∧
    direct.vsync = false ∧ direct.vsyncAt direct.nextLine ∧ direct.gotStartrender = false ∧ direct.dirty = .ok true ∧
    direct.get .fbEnable ≠ 0 ∧ direct.readFrame = .ok directFrame := by
  unfold State.vsyncAt
  decide

theorem test_witness_BadHblankModeStopsTheTick :
    (due (State.withReg start .spgHblankInt 0x1000) 0 false).get .hblankIntMode = 1 ∧
    (due (State.withReg start .spgHblankInt 0x3000) 0 false).get .hblankIntMode = 3 ∧
    (due (State.withReg start .spgHblankInt 0x3000) 0 false).accepts = true ∧
    (due (State.withReg start .spgHblankInt 0x3000) 0 false).timer = some 63556 := by decide

/-- A read source out of range stops the dirty test; one at the last word stops the second word's pixel. -/
theorem test_witness_ExtractionFaultStopsTheTick :
    (State.withReg direct .fbRSof1 0x800000).dirty = .error (.vramRange 0x800000) ∧
    (State.withReg (State.withReg direct .fbRSof1 0x7FFFFC) .fbRSize 0x00100001).dirty = .ok true ∧
    (State.withReg (State.withReg direct .fbRSof1 0x7FFFFC) .fbRSize 0x00100001).readFrame =
      .error (.vramRange 0x800000) ∧
    (State.withReg (State.withReg direct .fbRSof1 0x7FFFFC) .fbRSize 0x00100001).get .fbEnable ≠ 0 ∧
    (State.withReg direct .fbRSof1 0x800000).accepts = true ∧ direct.gotStartrender = false ∧
    (State.withReg direct .fbRSof1 0x800000).vsyncAt 260 ∧ (State.withReg direct .fbRSof1 0x800000).nextLine = 260 := by
  unfold State.vsyncAt
  decide

/-- The three fields share no bit in the default map; line 1025 keeps ten bits. -/
theorem test_witness_StatusMirrorWritesThreeFields :
    (defaultMap.bits .scanline).hi < (defaultMap.bits .fieldnum).lo ∧
    (defaultMap.bits .fieldnum).hi < (defaultMap.bits .statusVsync).lo ∧
    (∀ i ∈ [11, 12, 14, 31], i < 32 ∧ 11 ≤ i ∧ i ≠ 13) ∧
    mirrorWord defaultMap 1025 true true 0xFFFFFFFF = 0xFFFFFC01 ∧ mirrorWord defaultMap 0 false false 0xFFFFFFFF = 0xFFFFD800 := by decide

/-- Two lines a frame, vsync on line 1. -/
def twoLines : State := State.withReg (State.withReg start .spgLoad 0x00010359) .spgVblank 0x00020001

/-- Whether a run of a cycle ends in a next state without fault, given outright. -/
def cycle (s : State) : Bool :=
  match Host.Core.run Sys2Proof.core 2 s with
  | .next (t : State) => t.fault == none && t.currentLine == 0
  | _ => false

theorem test_witness_LineReturnsAfterAFullCycle :
    twoLines.inbox = [] ∧ twoLines.currentLine ≤ twoLines.get .vcount ∧ twoLines.get .vcount + 1 = 2 ∧
    cycle twoLines = true := by decide

theorem test_witness_OneVblankInAndOneOutPerCycle :
    twoLines.inbox = [] ∧ twoLines.currentLine ≤ twoLines.get .vcount ∧
    (twoLines.vsync = true ↔ twoLines.vsyncAt twoLines.currentLine) ∧ (1 ≤ twoLines.get .vcount ∧ twoLines.vsyncAt 1) ∧
    (0 ≤ twoLines.get .vcount ∧ ¬ twoLines.vsyncAt 0) ∧ cycle twoLines = true := by
  unfold State.vsyncAt
  decide

/-- The last two, three and four bytes of VRAM, and bytes that are not zero. -/
theorem test_witness_PixelConversionPerDepth :
    (∀ i < 2, addrAllowed direct.config (0x7FFFFE + BitVec.ofNat 32 i) = true) ∧
    (∀ i < 3, addrAllowed direct.config (0x7FFFFD + BitVec.ofNat 32 i) = true) ∧
    (∀ i < 4, addrAllowed direct.config (0x7FFFFC + BitVec.ofNat 32 i) = true) ∧
    (direct.vramByte (vramIndex .v32 (0 + BitVec.ofNat 32 1)) = 0xF8 ∧
      direct.vramByte (vramIndex .v32 (0 + BitVec.ofNat 32 2)) = 0x1F) := by decide

/-- A pixel whose fourth byte is the first out of range. -/
theorem test_witness_FourthByteOfA32BitPixelIsNotNeeded :
    (∀ i < 3, addrAllowed direct.config (0x7FFFFD + BitVec.ofNat 32 i) = true) ∧
    addrAllowed direct.config (0x7FFFFD + BitVec.ofNat 32 3) = false := by decide

theorem test_witness_ExtractedFrameHoldsEveryPixel : direct.readFrame = .ok directFrame := by decide

/-- A FIELDMAP whose depth field has five bits, so that a code above 3 can be held (R5, R119). -/
def wideDepth : RegisterMap := ⟨2048, [], [(.fbDepth, ⟨6, 2⟩)], by decide⟩

/-- The start state under that map, the depth field at 4: `FB_R_CTRL` 0x10. -/
def depthFour : State :=
  { start with config := { defaultConfig with regMap := wideDepth, clockInRange := by decide } }.setReg 0x11 0x10

/-- Depth 4 stops the size query; the same word is depth 0 under the default map. -/
theorem test_wide_depth_field :
    ran .vsize depthFour (fun t => t.fault == some (.depth 4)) = true ∧
    ran .vsize (start.setReg 0x11 0x10) (fun t => t.fault == none) = true := by decide

/-- A FIELDMAP in which `fb_enable` has two bits. -/
def wideEnable : RegisterMap := ⟨2048, [], [(.fbEnable, ⟨1, 0⟩)], by decide⟩

/-- R117 skips extraction at `fb_enable = 0` alone: the value 2 extracts. -/
theorem test_wide_enable_field_extracts :
    ran .tick (State.withReg { direct with config := { defaultConfig with regMap := wideEnable, clockInRange := by decide } }
      .fbRCtrl 6) (fun t => t.fbOut == some directFrame) = true := by decide

/-- One row of four pixels of two bytes each, read from an address on. -/
def cut (a : Word) : State := State.withReg (State.withReg direct .fbRSof1 a) .fbRSize 0x00100001

/-- Where the last clause applies: the first byte of the third pixel, and the second byte of the second. -/
theorem test_witness_FrameReadStopsAtTheFirstByteOutOfRange :
    (cut 0x7FFFFC).get .fbDepth = 1 ∧ (cut 0x7FFFFC).get .fbXSize = 1 ∧ (cut 0x7FFFFC).get .fbYSize = 0 ∧
    addrAllowed defaultConfig (0x7FFFFC + BitVec.ofNat 32 (2 * 2) + BitVec.ofNat 32 0) = false ∧
    (∀ x < 2, ∀ i < 2, addrAllowed defaultConfig (0x7FFFFC + BitVec.ofNat 32 (x * 2) + BitVec.ofNat 32 i) = true) ∧
    addrAllowed defaultConfig (0x7FFFFD + BitVec.ofNat 32 (1 * 2) + BitVec.ofNat 32 1) = false ∧
    addrAllowed defaultConfig (0x7FFFFD + BitVec.ofNat 32 (1 * 2) + BitVec.ofNat 32 0) = true ∧
    (∀ i < 2, addrAllowed defaultConfig (0x7FFFFD + BitVec.ofNat 32 (0 * 2) + BitVec.ofNat 32 i) = true) := by decide

/-- R131: the address of the fault is that byte's, in pixel and byte order. -/
theorem test_extract_stops_at_the_first_byte :
    (cut 0x7FFFFC).readFrame = .error (.vramRange 0x800000) ∧
    (State.withReg (State.withReg (cut 0x7FFFFC) .fbRSof1 0x800010) .fbRSize 0x00100400).readFrame =
      .error (.vramRange 0x800010) := by decide

theorem test_witness_FrameReadSucceedsInRange :
    direct.config.regMap = defaultMap ∧ direct.get .fbDepth = 1 ∧ depthFour.get .fbDepth = 4 ∧
    ∀ y < (direct.get .fbYSize + 1) * (if direct.get .interlace = 1 then 2 else 1), ∀ x < 2, ∀ i < 2,
      addrAllowed direct.config ((if y % 1 = 0 then direct.word .fbRSof1 else direct.word .fbRSof2) +
        BitVec.ofNat 32 (y / 1) * 4 + BitVec.ofNat 32 (x * 2) + BitVec.ofNat 32 i) = true := by decide

theorem test_witness_DirtyTestComparesTheWordAtTheReadSource :
    (∀ i < 4, addrAllowed direct.config (direct.word .fbRSof1 + BitVec.ofNat 32 i) = true) ∧
    direct.dirty = .ok true ∧ (State.withWord direct 0 0xDEADBEEF).dirty = .ok false ∧
    (0xEE : Byte) ≠ defaultConfig.fbCookie.extractLsb' (8 * 0) 8 ∧
    direct.vramByte (vramIndex .v32 (direct.word .fbRSof1 + BitVec.ofNat 32 3)) ≠
      direct.config.fbCookie.extractLsb' (8 * 3) 8 ∧
    addrAllowed direct.config (0x7FFFFE + BitVec.ofNat 32 2) = false ∧
    (∀ j < 2, addrAllowed direct.config (0x7FFFFE + BitVec.ofNat 32 j) = true) ∧
    addrAllowed direct.config (0x800000 + BitVec.ofNat 32 0) = false := by decide

/-- R116, R131: the third byte of the word at the read source is the first out of range. -/
theorem test_dirty_stops_at_the_first_byte :
    (State.withReg direct .fbRSof1 0x7FFFFE).dirty = .error (.vramRange 0x800000) := by decide

theorem test_witness_VideoSizeQuery :
    vga.accepts = true ∧ vga.config.vscaleLaw = .mulShr10 ∧
    ({ vga with config := { defaultConfig with vscaleLaw := .divShl10 } } : State).config.vscaleLaw = .divShl10 ∧
    vga.get .fbDepth = 1 ∧ depthFour.accepts = true ∧ 4 ≤ depthFour.get .fbDepth ∧
    vga.get .vscalefactor ≠ 0 ∧ (State.withReg vga .scalerCtl 0).get .vscalefactor = 0 := by decide

theorem test_witness_DefaultResetIsTheResetState :
    ({ State.reset with timer := none } : State).config = defaultConfig ∧
    ({ State.reset with timer := none } : State).now = 0 ∧ ({ State.reset with timer := none } : State).timer = none := by
  decide

theorem test_witness_TeardownCancelsTheTimer : start.live = true ∧ start.timer ≠ none := by decide

/-- Each kind of operation that may change a register changes one. -/
theorem test_witness_OnlyStoringWritesTheMirrorAndResetChangeRegisters :
    ran (.wrReg 0x004 5 0) start (fun t => t.reg 1 != start.reg 1) = true ∧
    ran (.wrRegTaYuvTexBase 0x148 5 0) start (fun t => t.reg 82 != start.reg 82) = true ∧
    ran (.wrRegSpgLoad 0x0D8 5 0) start (fun t => t.reg 54 != start.reg 54) = true ∧
    ran (.wrRegFbRCtrl 0x044 5 0) start (fun t => t.reg 17 != start.reg 17) = true ∧
    ran .tick (due start 0 false) (fun t => t.reg 67 != start.reg 67) = true ∧
    ran .reset (State.withReg start .revision 5) (fun t => t.reg 1 != 5) = true := by decide

/-- The flag is set by a start-render write and cleared by a tick. -/
theorem test_witness_TimingStateAndFlagsHaveTheirWritersOnly :
    start.gotStartrender = false ∧ ran (.wrRegStartrender 0x14 1 0) (State.withReg start .fbWSof1 0x01000000)
      (fun t => t.gotStartrender) = true ∧
    ran .tick { direct with gotStartrender := true } (fun t => !t.gotStartrender) = true := by decide +kernel

/-- A guest write, a start-render write, and a write of the memory subsystem between operations change VRAM. -/
theorem test_witness_NoOperationButGuestWritesAndMarkingChangesVram :
    stepped { start with inbox := [⟨0, true, .memoryWrite 5 7⟩] } (fun t => t.vramByte 5 != start.vramByte 5) = true ∧
    ran (.wrV64x1 5 7) start (fun t => t.vramByte 5 != start.vramByte 5) = true ∧
    ran (.wrRegStartrender 0x14 1 0) start (fun t => t.vramByte 0 != start.vramByte 0) = true := by decide +kernel

theorem test_witness_OnlyResetClearsAFault :
    (∃ t, exec .vsize { start with fault := some .vscaleZero } = .next t) ∧
    (∃ t, exec .teardown { start with live := false } = .next t) ∧ Instr.vsize ≠ .reset ∧ Instr.teardown ≠ .reset :=
  ⟨⟨_, rfl⟩, ⟨_, rfl⟩, by decide, by decide⟩

theorem test_witness_TraceOnlyGrowsUntilReset :
    (∃ t, exec .teardown start = .next t) ∧ Instr.teardown ≠ .reset := ⟨⟨_, rfl⟩, by decide⟩

/-- From reset to a horizon between the first deadline and the second: one tick, then all that is due has fired. -/
theorem test_witness_RunEndsAtTeardownOrAtTheHorizon :
    (start.live = true ∧ start.fault = none ∧ ∃ t, exec .teardown start = .next t) ∧
    (post .teardown start).ended = true ∧ (∃ t, EndsAtHorizon 63556 start t) ∧ start.now ≤ 63556 :=
  ⟨⟨rfl, rfl, ⟨_, rfl⟩⟩, by decide, ⟨_, 1, rfl, by decide, by decide, fun j hj u hu => by
    obtain rfl : j = 0 := by omega
    cases hu
    decide⟩, by decide⟩

/-- A fault that leaves its timer armed and a later TEARDOWN: the run has not ended (log 25). -/
theorem test_faulted_teardown_is_no_end :
    (post .teardown { start with fault := some .vscaleZero }).ended = false ∧
    (post .teardown { start with fault := some .vscaleZero }).live = false := by decide

theorem test_witness_ResetEstablishesTheInvariant :
    Memory.wf later.vram = true ∧ ∃ t, exec .reset later = .next t := ⟨by decide, ⟨_, rfl⟩⟩

theorem test_witness_StepKeepsTheInvariant : later.Inv ∧ ∃ t, step later = .next t :=
  ⟨test_witness_later_meets_the_invariant, ⟨_, rfl⟩⟩

end Sys2Proof.Tests
end

section
/-! SUPPORT. What a field read and a field write are, bit by bit (R11), under every register map. -/

namespace Sys2Proof.Machine

/-- A field read as arithmetic on its word (R11). -/
theorem fieldOf_eq (r : BitRange) (w : Word) : fieldOf r w = w.toNat / 2 ^ r.lo % 2 ^ r.width := by
  rw [fieldOf, BitVec.extractLsb'_toNat, Nat.shiftRight_eq_div_pow]

/-- Bit `i` of a field's value is bit `lo + i` of the word. -/
theorem testBit_fieldOf (r : BitRange) (w : Word) (i : Nat) :
    (fieldOf r w).testBit i = (decide (i < r.width) && w.getLsbD (r.lo + i)) := by
  rw [fieldOf, BitVec.testBit_toNat, BitVec.getLsbD_extractLsb']

/-- The mask of a field has the field's bits and no other. -/
theorem getLsbD_fieldMask (r : BitRange) {i : Nat} (hi : i < 32) :
    (fieldMask r).getLsbD i = decide (r.lo ≤ i ∧ i < r.lo + r.width) := by
  have hsub : i - r.lo < 32 := by omega
  rw [fieldMask, BitVec.getLsbD_shiftLeft, BitVec.getLsbD_ofNat, Nat.testBit_two_pow_sub_one]
  by_cases hlo : r.lo ≤ i
  · have hlt : i - r.lo < r.width ↔ i < r.lo + r.width := by omega
    simp [hi, hsub, hlo, hlt]
  · simp [hlo, Nat.lt_of_not_le hlo]

/-- A field write, bit by bit: the value's bits inside the field, the old word's outside. -/
theorem getLsbD_withField (r : BitRange) (v : Nat) (w : Word) {i : Nat} (hi : i < 32) :
    (withField r v w).getLsbD i =
      if r.lo ≤ i ∧ i < r.lo + r.width then v.testBit (i - r.lo) else w.getLsbD i := by
  have hsub : i - r.lo < 32 := by omega
  rw [withField, BitVec.getLsbD_or, BitVec.getLsbD_and, BitVec.getLsbD_and, BitVec.getLsbD_not,
    getLsbD_fieldMask r hi, BitVec.getLsbD_shiftLeft, BitVec.getLsbD_ofNat]
  by_cases hin : r.lo ≤ i ∧ i < r.lo + r.width
  · simp [hin, hi, hsub, Nat.not_lt.2 hin.1]
  · simp [hin, hi]

/-- A field that lies in its word reads back the value written, cut to the field's width. -/
theorem fieldOf_withField {r : BitRange} (h : r.lo + r.width ≤ 32) (v : Nat) (w : Word) :
    fieldOf r (withField r v w) = v % 2 ^ r.width := by
  apply Nat.eq_of_testBit_eq
  intro i
  rw [testBit_fieldOf, Nat.testBit_mod_two_pow]
  by_cases hi : i < r.width
  · rw [getLsbD_withField r v w (by omega), if_pos (by omega), Nat.add_sub_cancel_left]
  · simp [hi]

/-- The bits of a field end at its `hi`, in every map. -/
theorem RegisterMap.lo_add_width (m : RegisterMap) (f : FieldName) :
    (m.bits f).lo + (m.bits f).width = (m.bits f).hi + 1 := by
  have := (m.bits_legal f).1
  unfold BitRange.width
  omega

/-- Settles O14: the value cut to the width inside the field, the old bits outside (`fieldOf_withField`,
`getLsbD_withField`). -/
theorem fieldWriteReplacesOnlyItsBits : Obligations.FieldWriteReplacesOnlyItsBits := by
  refine ⟨fun s f => fieldOf_eq _ _, fun m f v w => ?_⟩
  have hend := m.lo_add_width f
  have hhi := (m.bits_legal f).2
  refine ⟨fieldOf_withField (by omega) v w, fun i hi hout => ?_⟩
  rw [getLsbD_withField _ v w hi, if_neg (by omega)]

end Sys2Proof.Machine
end

section
/-! SUPPORT. What each shape of a next state (`Effect`) does to the register file: all but the storing shapes, the tick
and reset leave every register, and those change the word at their own offset only (R12). -/

namespace Sys2Proof.Machine

section Shapes

variable {s t : State} {k o : Nat}

theorem State.Quiet.reg_eq (h : s.Quiet t) : t.reg o = s.reg o := by
  rw [h]; rfl

theorem State.Refused.reg_eq (h : s.Refused t) : t.reg o = s.reg o := by
  obtain ⟨-, f, rfl⟩ := h; rfl

theorem State.Wrote.reg_eq (h : s.Wrote t) : t.reg o = s.reg o := by
  obtain ⟨-, m, -, rfl⟩ := h; rfl

theorem State.Called.reg_eq (h : s.Called t) : t.reg o = s.reg o := by
  obtain ⟨-, l, -, rfl⟩ := h; rfl

theorem State.Marked.reg_eq (h : s.Marked t) : t.reg o = s.reg o := by
  obtain ⟨-, m, -, rfl | ⟨f, rfl⟩⟩ := h <;> rfl

theorem State.TickStopped.reg_eq (h : s.TickStopped t) : t.reg o = s.reg o := by
  obtain ⟨-, -, v, c, f, l, -, rfl⟩ := h; rfl

theorem State.TornDown.reg_eq (h : s.TornDown t) : t.reg o = s.reg o := by
  obtain ⟨-, l, -, rfl⟩ := h; rfl

theorem State.Stored.eq_of_reg_ne (h : s.Stored k t) (hne : t.reg o ≠ s.reg o) : o = k := by
  obtain ⟨-, -, w, l, -, rfl⟩ := h
  by_contra ho
  exact hne ((setReg_reg s k o w).trans (if_neg (Ne.symm ho)))

theorem State.Retimed.eq_of_reg_ne (h : s.Retimed k t) (hne : t.reg o ≠ s.reg o) : o = k := by
  obtain ⟨-, w, p, l, -, -, rfl⟩ := h
  by_contra ho
  exact hne ((setReg_reg s k o w).trans (if_neg (Ne.symm ho)))

/-- A tick that runs to its end writes the mirror, and no other register. -/
theorem State.Ticked.reg (h : s.Ticked t) (o : Nat) :
    t.reg o = if s.off .spgStatus = o then s.mirror t (s.reg o) else s.reg o := by
  obtain ⟨-, -, f, v, g, c, e, l, -, -, -, rfl⟩ := h
  refine (setReg_reg s (s.off .spgStatus) o _).trans ?_
  split
  · next ho => subst ho; rfl
  · rfl

theorem State.Ticked.mirror_of_reg_ne (h : s.Ticked t) (hne : t.reg o ≠ s.reg o) :
    o = s.off .spgStatus ∧ t.reg o = s.mirror t (s.reg o) := by
  have hreg := h.reg o
  split at hreg
  · next ho => exact ⟨ho.symm, hreg⟩
  · exact absurd hreg hne

end Shapes

/-- Settles O52: by the shapes of each operation's next state (`effect_of_exec`). -/
theorem onlyStoringWritesTheMirrorAndResetChangeRegisters :
    Obligations.OnlyStoringWritesTheMirrorAndResetChangeRegisters := by
  intro i s t o h hne
  have he := effect_of_exec h
  cases i with
  | rdReg | rdV32x1 | rdV32x2 | rdV32x4 | rdV32x8 | rdV64x1 | rdV64x2 | rdV64x4 | rdV64x8 | vsize =>
    rcases he with hq | hr
    · exact hne hq.reg_eq
    · exact hne hr.reg_eq
  | wrV32x1 | wrV32x2 | wrV32x4 | wrV32x8 | wrV64x1 | wrV64x2 | wrV64x4 | wrV64x8 =>
    rcases he with hq | hr | hw
    · exact hne hq.reg_eq
    · exact hne hr.reg_eq
    · exact hne hw.reg_eq
  | wrRegId => exact hne (State.Quiet.reg_eq he)
  | wrRegSoftreset | wrRegTaListInit | wrRegTaListCont =>
    rcases he with hq | hc
    · exact hne hq.reg_eq
    · exact hne hc.reg_eq
  | wrRegStartrender =>
    rcases he with hq | ⟨-, hm⟩
    · exact hne hq.reg_eq
    · exact hne hm.reg_eq
  | wrRegTaYuvTexBase =>
    rcases he with hq | hs
    · exact absurd hq.reg_eq hne
    · exact hs.eq_of_reg_ne hne
  | wrRegSpgLoad | wrRegFbRCtrl =>
    rcases he with hq | hs
    · exact absurd hq.reg_eq hne
    · exact hs.eq_of_reg_ne hne
  | wrReg =>
    rcases he with hq | hr | hs
    · exact absurd hq.reg_eq hne
    · exact absurd hr.reg_eq hne
    · exact hs.eq_of_reg_ne hne
  | tick =>
    rcases he with hq | ht | hx
    · exact absurd hq.reg_eq hne
    · exact ht.mirror_of_reg_ne hne
    · exact absurd hx.reg_eq hne
  | reset => trivial
  | teardown =>
    rcases he with hq | hd
    · exact hne hq.reg_eq
    · exact hne hd.reg_eq

end Sys2Proof.Machine
end

section
/-! SUPPORT. What each VRAM byte mask decodes to (R61), and what becomes of a move that does not decode (R129, R134). -/

namespace Sys2Proof.Machine

section Masks

variable (x1 x2 x4 x8 : Instr)

@[simp] theorem decodeWidth_mask1 : decodeWidth 0xFF x1 x2 x4 x8 = .ok x1 := rfl
@[simp] theorem decodeWidth_mask2 : decodeWidth 0xFFFF x1 x2 x4 x8 = .ok x2 := rfl
@[simp] theorem decodeWidth_mask4 : decodeWidth 0xFFFFFFFF x1 x2 x4 x8 = .ok x4 := rfl
@[simp] theorem decodeWidth_mask8 : decodeWidth 0xFFFFFFFFFFFFFFFF x1 x2 x4 x8 = .ok x8 := rfl

/-- R61: any mask but the four is refused, and the refusal carries it. -/
theorem decodeWidth_badMask {mask : DWord}
    (h : mask ∉ ([0xFF, 0xFFFF, 0xFFFFFFFF, 0xFFFFFFFFFFFFFFFF] : List DWord)) :
    decodeWidth mask x1 x2 x4 x8 = .error (.badMask mask) := by
  simp only [List.mem_cons, List.not_mem_nil, or_false, not_or] at h
  obtain ⟨h1, h2, h4, h8⟩ := h
  exact (if_neg h1).trans ((if_neg h2).trans ((if_neg h4).trans (if_neg h8)))

end Masks

/-- A transaction whose mask is refused faults a block that takes steps, and changes nothing else but the reply. -/
theorem serveMove_badMask {s : State} {x : Transaction} {mask : DWord} (hs : s.accepts = true)
    (hx : decode s.config.regMap x = .error (.badMask mask)) :
    serveMove (.bus x) s = .next (({ s with fault := some (.badMask mask) } : State).answer .faulted) := by
  simp only [serveMove, hx, execReject, hs, runIf_true, raise_eq, close_halted]

/-- Settles O5: the four masks by their equations, the data cut to its low bits (`Laws.setWidth_eq_extract`); any other
mask by `decodeWidth_badMask` and `serveMove_badMask`, the same for both views and directions. -/
theorem vramMaskSelectsWidthOrIsRefused : Obligations.VramMaskSelectsWidthOrIsRefused := by
  refine ⟨fun m addr data => ?_, fun s addr mask data hs hmask x hx => ?_, fun m addr data mask => ?_⟩
  · simp only [decode, decodeWidth_mask1, decodeWidth_mask2, decodeWidth_mask4, decodeWidth_mask8,
      Laws.setWidth_eq_extract, and_self]
  · have hbad : decode s.config.regMap x = .error (.badMask mask) := by
      simp only [List.mem_cons, List.not_mem_nil, or_false] at hx
      rcases hx with rfl | rfl | rfl | rfl <;> exact decodeWidth_badMask _ _ _ _ hmask
    exact ⟨_, serveMove_badMask hs hbad, rfl⟩
  · exact ⟨⟨_, rfl⟩, _, rfl⟩

end Sys2Proof.Machine
end

section
/-! SUPPORT. A register access outside the register file, in a block that accepts operations: refused with `REG_RANGE`
(R76, R130). -/

namespace Sys2Proof.Machine

section RegRange

variable {s : State}

/-- An accepted operation whose body raises at once ends in the old state with that fault recorded (R130). -/
theorem runIf_of_raise {body : State → Flow} {f : BlockFault} (hs : s.accepts = true) (hb : body s = s.raise f) :
    runIf s.accepts body s = .next (({ s with fault := some f } : State).answer .faulted) := by
  rw [hs, runIf_true, hb, raise_eq, close_halted]

variable {addr : Word} (hs : s.accepts = true) (ho : s.config.regMap.numRegs ≤ wordOffset addr)
include hs ho

theorem execRdReg_regRange (mask : Word) :
    execRdReg addr mask s = .next (({ s with fault := some (.regRange addr) } : State).answer .faulted) :=
  runIf_of_raise hs (if_pos ho)

theorem execWrReg_regRange (data mask : Word) :
    execWrReg addr data mask s = .next (({ s with fault := some (.regRange addr) } : State).answer .faulted) :=
  runIf_of_raise hs (if_pos ho)

end RegRange

/-- Settles O3: the decoder's chain of rows is that of R76, over the same word offset; outside the register file the
write and the read each raise `REG_RANGE` before anything else (`execWrReg_regRange`, `execRdReg_regRange`). -/
theorem registerTransactionsDecodeInRowOrder : Obligations.RegisterTransactionsDecodeInRowOrder := by
  refine ⟨fun m addr data mask => rfl, fun m addr mask => rfl, fun s addr data mask hs ho => ⟨?_, ?_⟩⟩
  · exact ⟨_, execWrReg_regRange hs ho data mask, rfl⟩
  · exact ⟨_, execRdReg_regRange hs ho mask, rfl⟩

end Sys2Proof.Machine
end

section
/-! SUPPORT. Register accesses in a block that accepts operations (40_register_access.md): the state each one ends in, and
what a masked store leaves in the register file (R80 to R89). -/

namespace Sys2Proof.Machine

/-! ### A masked store (R82) and reconfiguration (R97, R98), as the rules write them -/

theorem maskedWord_verbatim {c : Config} (h : c.maskedWriteMode = .verbatim) (old data mask : Word) :
    maskedWord c old data mask = data := by
  simp only [maskedWord, h]

theorem maskedWord_merge {c : Config} (h : c.maskedWriteMode = .merge) (old data mask : Word) :
    maskedWord c old data mask = (old &&& ~~~ mask) ||| (data &&& mask) := by
  simp only [maskedWord, h]

theorem store_reg_self (s : State) (o : Nat) (data mask : Word) :
    (s.store o data mask).reg o = maskedWord s.config (s.reg o) data mask :=
  (store_reg s o o data mask).trans (if_pos rfl)

/-- The register file after a store, in each `MASKED_WRITE_MODE` (R82). -/
theorem store_reg_by_mode (s : State) (o : Nat) (data mask : Word) :
    (s.config.maskedWriteMode = .verbatim → (s.store o data mask).reg o = data) ∧
    (s.config.maskedWriteMode = .merge →
      (s.store o data mask).reg o = (s.reg o &&& ~~~ mask) ||| (data &&& mask)) ∧
    ∀ k, k ≠ o → (s.store o data mask).reg k = s.reg k :=
  ⟨fun h => (store_reg_self s o data mask).trans (maskedWord_verbatim h _ _ _),
    fun h => (store_reg_self s o data mask).trans (maskedWord_merge h _ _ _),
    fun k hk => (store_reg s o k data mask).trans (if_neg hk.symm)⟩

/-- The line rate from the fields' values (R97, R98). -/
theorem lineHz_eq (s : State) : s.lineHz =
    s.config.pixelClockBaseHz * (if s.get .vclkDiv = 1 then 2 else 1) / (s.get .hcount + 1) *
      (if s.get .interlace = 1 then 2 else 1) := by
  simp only [State.lineHz, State.pixelHz, State.flag, beq_iff_eq]

/-- A trigger's call is an event of the trace and nothing else. -/
theorem emitIf_eq (s : State) (p : Bool) (e : Event) :
    s.emitIf p e = { s with trace := s.trace ++ (if p then [e] else []) } := by
  cases p
  · simp [State.emitIf]
  · rfl

/-- `ID` and the triggers hold their reset words under the invariant, since nothing stores there (R13, R90). -/
theorem State.Inv.reg_eq_resetWord {s : State} (hi : s.Inv) {r : RegName}
    (hr : r ∈ ([.id, .softreset, .startrender, .taListInit, .taListCont] : List RegName)) :
    s.reg (s.off r) = regResetWord s.config (s.off r) := by
  simp only [List.mem_cons, List.not_mem_nil, or_false] at hr
  rcases hr with rfl | rfl | rfl | rfl | rfl
  · exact hi.id_word
  · exact hi.softreset_word
  · exact hi.startrender_word
  · exact hi.listInit_word
  · exact hi.listCont_word

/-! ### The state an accepted access ends in -/

section Accepted

variable {s : State}

/-- An accepted operation whose body runs to its end ends there (R129). -/
theorem runIf_of_on {body : State → Flow} {t : State} (hs : s.accepts = true) (hb : body s = .on t) :
    runIf s.accepts body s = .next t := by
  rw [hs, runIf_true, hb, close_on]

variable (hs : s.accepts = true) (addr data mask : Word)
include hs

theorem execRdReg_accepted (ho : wordOffset addr < s.config.regMap.numRegs) :
    execRdReg addr mask s = .next (s.answer (.word (s.reg (wordOffset addr)))) :=
  runIf_of_on hs (if_neg (Nat.not_le.2 ho))

theorem execWrRegId_accepted : execWrRegId addr data mask s = .next (s.answer .done) :=
  runIf_of_on hs rfl

theorem execWrReg_accepted (ho : wordOffset addr < s.config.regMap.numRegs) :
    execWrReg addr data mask s = .next ((s.store (wordOffset addr) data mask).answer .done) :=
  runIf_of_on hs (if_neg (Nat.not_le.2 ho))

/-- The body that the three triggers share (R83, R85, R86). -/
theorem runIf_emitIf_accepted (p : Bool) (e : Event) :
    runIf s.accepts (fun s => .on ((s.emitIf p e).answer .done)) s =
      .next { s with trace := s.trace ++ (if p then [e] else []), reply := .done } := by
  rw [hs, runIf_true, emitIf_eq]
  rfl

theorem execWrRegTaYuvTexBase_accepted : execWrRegTaYuvTexBase addr data mask s =
    .next (((s.store (s.off .taYuvTexBase) data mask).emit .pipelineYuvInit).answer .done) :=
  runIf_of_on hs rfl

/-- The body that the two timing registers share (R88, R89): the state it ends in, the new period written out. -/
theorem runIf_reconfigure_accepted (r : RegName) :
    runIf s.accepts (fun s => .on ((s.store (s.off r) data mask).reconfigure.answer .done)) s =
      let u := s.store (s.off r) data mask
      .next { u with
        linePeriodNs := nsPerSec / u.lineHz
        timer := some (s.now + nsPerSec / u.lineHz)
        trace := s.trace ++ (if s.timer = none then [] else [.timerCancel]) ++ [.timerArm (s.now + nsPerSec / u.lineHz)]
        reply := .done } := by
  rw [hs, runIf_true, reconfigure_eq]
  rfl

end Accepted

/-- Settles O15: an accepted read in range answers the stored word (`execRdReg_accepted`), which at `ID` and the triggers
the invariant fixes (`State.Inv.reg_eq_resetWord`). -/
theorem registerReadReturnsTheStoredWord : Obligations.RegisterReadReturnsTheStoredWord := by
  refine ⟨fun s addr mask hs ho => execRdReg_accepted hs addr mask ho, fun s addr mask hi hs hmem => ?_⟩
  obtain ⟨r, hr, hoff⟩ := List.mem_map.1 hmem
  have hlt : wordOffset addr < s.config.regMap.numRegs := hoff.symm.trans_lt (off_lt s r)
  have hword : s.reg (addr.toNat / 4) = regResetWord s.config (addr.toNat / 4) := hoff ▸ hi.reg_eq_resetWord hr
  exact hword ▸ execRdReg_accepted hs addr mask hlt

/-- Settles O20: both registers run one body, store then reconfigure (`runIf_reconfigure_accepted`), so the fields of the
next state are those of the stored registers (`lineHz_eq`, `store_reg_by_mode`). -/
theorem timingRegisterWritesReconfigure : Obligations.TimingRegisterWritesReconfigure := by
  intro s addr data mask hs p hp
  simp only [List.mem_cons, List.not_mem_nil, or_false] at hp
  rcases hp with rfl | rfl <;>
    exact ⟨_, runIf_reconfigure_accepted hs data mask _, congrArg (nsPerSec / ·) (lineHz_eq _), rfl,
      store_reg_by_mode s _ data mask⟩

/-- Settles O16: the write only answers (`execWrRegId_accepted`). -/
theorem idWriteIsIgnored : Obligations.IdWriteIsIgnored :=
  fun _ addr data mask hs => ⟨_, execWrRegId_accepted hs addr data mask, rfl⟩

/-- Settles O17: in range the write is one store (`execWrReg_accepted`), read back by `store_reg_by_mode`. -/
theorem plainRegisterWriteStores : Obligations.PlainRegisterWriteStores :=
  fun s addr data mask hs ho _ =>
    ⟨_, execWrReg_accepted hs addr data mask ho, rfl, store_reg_by_mode s _ data mask⟩

/-- Settles O18: the three triggers share one body, which adds at most one event (`runIf_emitIf_accepted`). -/
theorem triggerWritesCallThePipelineAndNeverStore : Obligations.TriggerWritesCallThePipelineAndNeverStore :=
  fun _ _ _ _ hs =>
    ⟨⟨_, runIf_emitIf_accepted hs _ .pipelineReset, rfl⟩, ⟨_, runIf_emitIf_accepted hs _ .pipelineListInit, rfl⟩,
      ⟨_, runIf_emitIf_accepted hs _ .pipelineListCont, rfl⟩⟩

/-- Settles O19: one store and one event (`execWrRegTaYuvTexBase_accepted`), the store read back by
`store_reg_by_mode`. -/
theorem yuvBaseWriteStoresThenNotifies : Obligations.YuvBaseWriteStoresThenNotifies :=
  fun s addr data mask hs =>
    ⟨_, execWrRegTaYuvTexBase_accepted hs addr data mask, rfl, store_reg_by_mode s _ data mask⟩

end Sys2Proof.Machine
end

section
/-! SUPPORT. Guest VRAM accesses in a block that accepts operations (41_vram_access.md): every row of either view is one
shared body, and an aligned access in range (or under the wrap policy) runs it to its end (R57, R62, R92 to R95). -/

namespace Sys2Proof.Machine

/-! ### The rows -/

/-- Every read row has a width of at most eight bytes and is the shared read of its view and width (R92, R94). -/
theorem exec_readRow {addr : Word} {p : View × Nat × Instr} (hp : p ∈ readRows addr) :
    p.2.1 ≤ 8 ∧ ∀ s, exec p.2.2 s = runIf s.accepts (guestRead p.1 p.2.1 addr) s := by
  simp only [readRows, List.mem_cons, List.not_mem_nil, or_false] at hp
  rcases hp with rfl | rfl | rfl | rfl | rfl | rfl | rfl | rfl <;> exact ⟨by simp, fun _ => rfl⟩

/-- Every write row has a width of at most eight bytes and is the shared write of its view and width, the data cut to
that width (R93, R95). -/
theorem exec_writeRow {addr : Word} {data : DWord} {p : View × Nat × Instr} (hp : p ∈ writeRows addr data) :
    p.2.1 ≤ 8 ∧
      ∀ s, exec p.2.2 s = runIf s.accepts (guestWrite p.1 p.2.1 addr (data.setWidth (8 * p.2.1)).toNat) s := by
  simp only [writeRows, List.mem_cons, List.not_mem_nil, or_false] at hp
  rcases hp with rfl | rfl | rfl | rfl | rfl | rfl | rfl | rfl <;> exact ⟨by simp, fun _ => rfl⟩

/-! ### Byte order (R59) -/

/-- Byte `j` of a word of any width written out. -/
theorem leBytes_toNat_getElem {m n j : Nat} (w : BitVec m) (h : j < (leBytes n w.toNat).length) :
    (leBytes n w.toNat)[j] = w.extractLsb' (8 * j) 8 := by
  rw [leBytes_getElem]
  apply BitVec.eq_of_toNat_eq
  simp [BitVec.extractLsb'_toNat, Nat.shiftRight_eq_div_pow, pow_mul]

/-! ### The state an accepted access ends in -/

section Accepted

variable {s : State} {n : Nat} {addr : Word} (hs : s.accepts = true) (hf : guestFault s.config n addr = none) (v : View)
include hs hf

theorem guestRead_accepted : runIf s.accepts (guestRead v n addr) s =
    .next (s.answer (.value n (BitVec.ofNat 64 (leValue (s.readBytes v n addr))))) :=
  runIf_of_on hs (by simp only [guestRead, hf])

theorem guestWrite_accepted (data : Nat) : runIf s.accepts (guestWrite v n addr data) s =
    .next ((State.writeBytes v (leBytes n data) addr s).answer .done) :=
  runIf_of_on hs (by simp only [guestWrite, hf])

end Accepted

/-! ### The bytes an accepted access moves -/

/-- Byte `j` of a read's result: the byte that address `addr + j` names, zero beyond the width (R92, R94). -/
theorem readBytes_value_byte (s : State) (v : View) {n : Nat} (hn : n ≤ 8) (addr : Word) (j : Nat) :
    (BitVec.ofNat 64 (leValue (s.readBytes v n addr))).extractLsb' (8 * j) 8 =
      if j < n then s.vramByte (vramIndex v (addr + BitVec.ofNat 32 j)) else 0 := by
  rw [leValue_extract _ (by simpa using hn)]
  simp only [readBytes_length, readBytes_getElem, dite_eq_ite]

/-- After a write, the byte that address `addr + j` names is byte `j` of the data (R93, R95). -/
theorem writeBytes_data_byte (s : State) (v : View) {n j : Nat} (hn : n ≤ 8) (hj : j < n) (addr : Word)
    (data : DWord) :
    (State.writeBytes v (leBytes n (data.setWidth (8 * n)).toNat) addr s).vramByte
      (vramIndex v (addr + BitVec.ofNat 32 j)) = data.extractLsb' (8 * j) 8 := by
  have hsize : (leBytes n (data.setWidth (8 * n)).toNat).length ≤ vramSize := by
    rw [leBytes_length]
    exact hn.trans (by decide)
  rw [writeBytes_at v _ addr s hsize j (by simpa using hj), leBytes_toNat_getElem,
    BitVec.extractLsb'_setWidth_of_le (by omega)]

/-- Settles O28: each row is the shared read (`exec_readRow`), which runs to its end (`guestFault_none`,
`guestRead_accepted`); its result's bytes are those read (`readBytes_value_byte`). -/
theorem guestReadReturnsLittleEndianBytes : Obligations.GuestReadReturnsLittleEndianBytes := by
  intro s addr p hp hs halign hrange
  obtain ⟨hn, hexec⟩ := exec_readRow hp
  exact ⟨_, (hexec s).trans (guestRead_accepted hs (guestFault_none halign hrange) p.1),
    fun j _ => readBytes_value_byte s p.1 hn addr j⟩

/-- Settles O29: each row is the shared write (`exec_writeRow`), which runs to its end (`guestFault_none`,
`guestWrite_accepted`) and changes VRAM alone (`writeBytes_eq`): the bytes it names hold its data
(`writeBytes_data_byte`), no other byte moves (`writeBytes_other`). -/
theorem guestWriteStoresItsBytesAndNothingElse : Obligations.GuestWriteStoresItsBytesAndNothingElse := by
  intro s addr data p hp hs halign hrange
  obtain ⟨hn, hexec⟩ := exec_writeRow hp
  refine ⟨_, (hexec s).trans (guestWrite_accepted hs (guestFault_none halign hrange) p.1 _), ?_, ?_, ?_⟩
  · rw [writeBytes_eq]
    rfl
  · exact fun j hj => writeBytes_data_byte s p.1 hn hj addr data
  · exact fun k hk => writeBytes_other p.1 _ addr s k (by simpa using hk)

end Sys2Proof.Machine
end

section
/-! SUPPORT. A tick at its deadline and a teardown of a live block (42_spg.md): the state each one ends in, and what a tick
still adds to the trace once its line's interrupts are raised (R101 to R112). -/

namespace Sys2Proof.Machine

/-! ### Where a due tick and a teardown end -/

section Accepted

variable {s : State}

theorem exec_tick_due (hs : s.accepts = true) (ht : s.timer = some s.now) :
    exec .tick s = .next s.tickBody.close :=
  if_pos (by simp [hs, ht])

/-- In a mode other than 0 and 2 the tick stops on the new line, with the timer consumed (R101, R103, R132). -/
theorem tickBody_halted (h0 : s.get .hblankIntMode ≠ 0) (h2 : s.get .hblankIntMode ≠ 2) :
    s.tickBody = .halted { s with
      currentLine := s.nextLine, timer := none, fault := some (.hblankMode (s.get .hblankIntMode)) } := by
  unfold State.tickBody
  rw [stepInterrupts_halted (s := State.stepLine { s with timer := none }) h0 h2]
  rfl

/-- In mode 0 or 2 a tick whose edges stop at no fault ends with the mirror and the next timer (R110, R111). -/
theorem exec_tick_on_of_edges {u : State} (hs : s.accepts = true) (ht : s.timer = some s.now)
    (hm : s.get .hblankIntMode = 0 ∨ s.get .hblankIntMode = 2) (he : s.atLine.stepEdges s.vsync = .on u) :
    exec .tick s = .next ((u.stepMirror.schedule u.linePeriodNs).answer .done) := by
  rw [exec_tick_due hs ht, tickBody_on hm, he, andThen_on, close_on]

theorem exec_teardown_live (hl : s.live = true) :
    exec .teardown s = .next (State.answer { s.cancel with live := false } .done) :=
  if_pos hl

end Accepted

/-- The register file after the mirror: `SPG_STATUS` mirrored, every other register kept (R110). -/
theorem stepMirror_reg_of_same {s u : State} (hc : u.config = s.config) (hr : u.regs = s.regs) (o : Nat) :
    u.stepMirror.reg o = if o = s.off .spgStatus then s.mirror u (s.reg o) else s.reg o := by
  have hoff : u.off .spgStatus = s.off .spgStatus := by rw [State.off, State.off, hc]
  have hreg : u.reg = s.reg := by funext k; rw [State.reg, State.reg, hr]
  rw [stepMirror_reg, hoff, hreg, hc]
  by_cases ho : s.off .spgStatus = o
  · subst ho
    rw [if_pos rfl, if_pos rfl, State.mirror, State.word, hoff, hreg]
  · rw [if_neg ho, if_neg (Ne.symm ho)]

theorem Flow.All.mono {P Q : State → Prop} {f : Flow} (hf : f.All P) (h : ∀ t, P t → Q t) : f.All Q := by
  cases f with
  | on t => exact h t hf
  | halted t => exact h t hf

/-! ### No interrupt after those of the line (R103 to R105) -/

/-- From `s` to `t` the line and the vsync flag are kept, and the trace grows by no interrupt. -/
structure State.RaisesNone (s t : State) : Prop where
  line : t.currentLine = s.currentLine
  vsync : t.vsync = s.vsync
  trace : ∃ l, t.trace = s.trace ++ l ∧ ∀ e ∈ l, ∀ q, e ≠ .raise q

namespace State.RaisesNone

variable {s t u : State}

theorem of_eq (hl : t.currentLine = s.currentLine) (hv : t.vsync = s.vsync) (ht : t.trace = s.trace) : s.RaisesNone t :=
  ⟨hl, hv, [], by simp [ht], by simp⟩

theorem of_event {e : Event} (he : ∀ q, e ≠ .raise q) (hl : t.currentLine = s.currentLine) (hv : t.vsync = s.vsync)
    (ht : t.trace = s.trace ++ [e]) : s.RaisesNone t :=
  ⟨hl, hv, [e], ht, by simpa using he⟩

theorem trans (h₁ : s.RaisesNone t) (h₂ : t.RaisesNone u) : s.RaisesNone u := by
  obtain ⟨hl₁, hv₁, l₁, ht₁, hn₁⟩ := h₁
  obtain ⟨hl₂, hv₂, l₂, ht₂, hn₂⟩ := h₂
  refine ⟨hl₂.trans hl₁, hv₂.trans hv₁, l₁ ++ l₂, by rw [ht₂, ht₁, List.append_assoc], fun e he => ?_⟩
  rcases List.mem_append.1 he with he | he
  · exact hn₁ e he
  · exact hn₂ e he

/-- A part that raises none, after a flow that raised none. -/
theorem andThen {f : Flow} {k : State → Flow} (hf : f.All s.RaisesNone) (hk : ∀ t, (k t).All t.RaisesNone) :
    (f.andThen k).All s.RaisesNone :=
  all_andThen hf fun t _ ht => (hk t).mono fun _ => ht.trans

theorem close {f : Flow} (hf : f.All s.RaisesNone) : s.RaisesNone f.close := by
  cases f with
  | on t => exact hf
  | halted t => exact hf.trans (of_eq rfl rfl rfl)

end State.RaisesNone

theorem detectAndExtract_raisesNone (s : State) : s.detectAndExtract.All s.RaisesNone := by
  rcases detectAndExtract_cases s with ⟨f, -, h⟩ | ⟨-, h⟩ | ⟨-, -, h⟩ | ⟨f, -, -, -, h⟩ | ⟨fr, -, -, -, h⟩ <;> rw [h]
  · exact .of_eq rfl rfl rfl
  · exact .of_eq rfl rfl rfl
  · exact .of_eq rfl rfl rfl
  · exact .of_eq rfl rfl rfl
  · exact .of_event (e := .pushFrame fr) (by simp) rfl rfl rfl

theorem vblankInEvent_raisesNone (s : State) : s.vblankInEvent.All s.RaisesNone := by
  have hcount : s.RaisesNone s.countVblank :=
    .of_event (e := .counterAdd s.config.vblankCounter 1) (by simp) rfl rfl rfl
  have htoggle (t : State) : t.RaisesNone t.toggleField :=
    .of_event (e := .vblankIn (t.flag .blankVideo)) (by simp) rfl rfl rfl
  rcases vblankInEvent_cases s with ⟨-, h⟩ | ⟨-, h⟩ <;> rw [h]
  · have hclear : s.countVblank.RaisesNone { s.countVblank with gotStartrender := false } := .of_eq rfl rfl rfl
    exact (hcount.trans hclear).trans (htoggle _)
  · have hdetect : s.countVblank.detectAndExtract.All s.RaisesNone :=
      (detectAndExtract_raisesNone s.countVblank).mono fun _ => hcount.trans
    exact State.RaisesNone.andThen hdetect htoggle

theorem stepEdges_raisesNone (prev : Bool) (s : State) : (s.stepEdges prev).All s.RaisesNone := by
  rcases stepEdges_cases prev s with ⟨-, -, h⟩ | ⟨-, -, h⟩ | ⟨-, h⟩ <;> rw [h]
  · exact vblankInEvent_raisesNone s
  · exact .of_event (e := .vblankOut) (by simp) rfl rfl rfl
  · exact .of_eq rfl rfl rfl

/-- In mode 0 or 2 nothing after the interrupts raises another, or moves the line or the vsync flag, whether the tick ends
or an extraction fault stops it. -/
theorem tickBody_raisesNone {s : State} (hm : s.get .hblankIntMode = 0 ∨ s.get .hblankIntMode = 2) :
    s.atLine.RaisesNone s.tickBody.close := by
  rw [tickBody_on hm]
  exact .close (State.RaisesNone.andThen (stepEdges_raisesNone s.vsync s.atLine) fun t =>
    .of_event (e := .timerArm (t.now + t.linePeriodNs)) (by simp) rfl rfl rfl)

/-! ### The obligations -/

/-- Settles O33: a bad mode stops the tick on its new line (`tickBody_halted`); otherwise the tick passes through `atLine`,
which holds the line, its flag (`vsyncOf_iff`) and its interrupts, and raises none after (`tickBody_raisesNone`). -/
theorem everyTickAdvancesTheLineThenStopsOrRaisesItsInterrupts :
    Obligations.EveryTickAdvancesTheLineThenStopsOrRaisesItsInterrupts := by
  intro s hs ht
  refine ⟨_, exec_tick_due hs ht, ?_⟩
  by_cases hm : s.get .hblankIntMode = 0 ∨ s.get .hblankIntMode = 2
  · obtain ⟨hline, hvsync, l, htrace, hl⟩ := tickBody_raisesNone hm
    refine ⟨hline, fun hbad => ?_, fun _ => ⟨?_, l, ?_, hl⟩, hblankIntMode_lt s⟩
    · simp only [List.mem_cons, List.not_mem_nil, or_false] at hbad
      omega
    · rw [hvsync, hline]
      exact vsyncOf_iff s s.nextLine
    · rw [htrace, hline]
      simp only [State.atLine, State.lineEvents, List.append_assoc]
  · rw [tickBody_halted (fun h => hm (Or.inl h)) (fun h => hm (Or.inr h)), close_halted]
    exact ⟨rfl, fun _ => ⟨rfl, rfl, rfl⟩, fun hok => absurd (by simpa using hok) hm, hblankIntMode_lt s⟩

/-- Settles O35: the edge is `vblankOutEvent` alone (`stepEdges_cases`), so the tick ends by `exec_tick_on_of_edges`. -/
theorem tickOnTheFallingEdge : Obligations.TickOnTheFallingEdge := by
  intro s hs ht hmode hprev hnext
  have hm : s.get .hblankIntMode = 0 ∨ s.get .hblankIntMode = 2 := by simpa using hmode
  have hv : s.atLine.vsync = false := Bool.eq_false_iff.2 fun h => hnext ((vsyncOf_iff s s.nextLine).1 h)
  have he : s.atLine.stepEdges s.vsync = .on s.atLine.vblankOutEvent := by
    rcases stepEdges_cases s.vsync s.atLine with ⟨h, -, -⟩ | ⟨-, -, h⟩ | ⟨h, -⟩
    · simp [hprev] at h
    · exact h
    · simp [hprev, hv] at h
  refine ⟨_, exec_tick_on_of_edges hs ht hm he, ?_,
    fun o => stepMirror_reg_of_same (s := s) (u := s.atLine.vblankOutEvent) rfl rfl o⟩
  rw [← hv]
  rw [List.append_cons _ Event.vblankOut]
  rfl

/-- Settles O51: a live block runs the teardown (`exec_teardown_live`), whose cancellation is `cancel_eq`. -/
theorem teardownCancelsTheTimer : Obligations.TeardownCancelsTheTimer := by
  intro s hl
  refine ⟨_, exec_teardown_live hl, ?_⟩
  rw [cancel_eq]
  rfl

end Sys2Proof.Machine
end

section
/-! SUPPORT. What the conversion of a pixel and the video-output-size query hand back (43_framebuffer.md): the bytes of each
depth, and the scaled size or the fault that stops it (R118, R119, R122 to R127). -/

namespace Sys2Proof.Machine

/-! ### Pixels (R122 to R125) -/

/-- A run of bytes is what its addresses name, in rising order (R58). -/
theorem readBytes_eq_map (s : State) (v : View) (n : Nat) (a : Word) :
    s.readBytes v n a = (List.range n).map fun i => s.vramByte (vramIndex v (a + BitVec.ofNat 32 i)) := by
  apply List.ext_getElem (by simp)
  intro i h1 h2
  rw [readBytes_getElem, List.getElem_map, List.getElem_range]

/-- Two bytes as a halfword: the second is the high one (R59). -/
theorem ofNat_leValue_pair (b0 b1 : Byte) : BitVec.ofNat 16 (leValue [b0, b1]) = b1 ++ b0 := by
  apply BitVec.eq_of_toNat_eq
  have h0 := b0.isLt
  have h1 := b1.isLt
  rw [BitVec.toNat_append, ← Nat.shiftLeft_add_eq_or_of_lt h0, Nat.shiftLeft_eq, BitVec.toNat_ofNat]
  simp only [leValue]
  omega

/-- A channel shifted to the top of its byte is followed by zeros: no replication of its high bits (R122, R123). -/
theorem setWidth_shiftLeft_eq_append {n : Nat} (x : BitVec n) (k : Nat) :
    x.setWidth (n + k) <<< k = x ++ 0#k := by
  rw [BitVec.append_def, BitVec.shiftLeftZeroExtend_eq]
  simp

theorem rgb555_eq (v : BitVec 16) :
    rgb555 v = [v.extractLsb' 10 5 ++ 0#3, v.extractLsb' 5 5 ++ 0#3, v.extractLsb' 0 5 ++ 0#3] := by
  simp only [← setWidth_shiftLeft_eq_append, rgb555]

theorem rgb565_eq (v : BitVec 16) :
    rgb565 v = [v.extractLsb' 11 5 ++ 0#3, v.extractLsb' 5 6 ++ 0#2, v.extractLsb' 0 5 ++ 0#3] := by
  simp only [← setWidth_shiftLeft_eq_append, rgb565]

/-- Where each byte that its depth reads may be accessed, a pixel is the conversion of those bytes. -/
theorem convertPixel_eq {s : State} {depth : Nat} {a : Word}
    (h : ∀ i < pixelBytesRead depth, addrAllowed s.config (a + BitVec.ofNat 32 i) = true) :
    s.convertPixel depth a = .ok (pixelRgb depth ((List.range (pixelBytesRead depth)).map fun i =>
      s.vramByte (vramIndex .v32 (a + BitVec.ofNat 32 i)))) := by
  rw [State.convertPixel, linRead_of_allowed (firstRefused_none.2 h), readBytes_eq_map]

/-- The two deeper formats hold blue, green and red in their first three bytes, which alone are read (R124, R125). -/
theorem convertPixel_of_three_bytes {s : State} {depth : Nat} {a : Word} (hd : depth ∈ [2, 3])
    (h : ∀ i < 3, addrAllowed s.config (a + BitVec.ofNat 32 i) = true) :
    s.convertPixel depth a = .ok ([2, 1, 0].map fun i => s.vramByte (vramIndex .v32 (a + BitVec.ofNat 32 i))) := by
  simp only [List.mem_cons, List.not_mem_nil, or_false] at hd
  rcases hd with rfl | rfl <;> exact convertPixel_eq h

/-- Settles O43: each depth converts the bytes it reads (`convertPixel_eq`); the first two as a halfword
(`ofNat_leValue_pair`) cut into channels (`rgb555_eq`, `rgb565_eq`), the others byte by byte
(`convertPixel_of_three_bytes`), the fourth byte of depth 3 unread. -/
theorem pixelConversionPerDepth : Obligations.PixelConversionPerDepth := by
  intro s a b
  refine ⟨fun h => ⟨?_, ?_⟩, fun h => ?_, fun h => ?_⟩
  · rw [← rgb555_eq, ← ofNat_leValue_pair]
    exact convertPixel_eq (depth := 0) h
  · rw [← rgb565_eq, ← ofNat_leValue_pair]
    exact convertPixel_eq (depth := 1) h
  · exact convertPixel_of_three_bytes (by simp) h
  · exact convertPixel_of_three_bytes (by simp) fun i hi => h i (by omega)

/-! ### Video output size (R127) -/

/-- The table of R118: no fifth depth code has a format. -/
theorem bppOf_eq_getElem? (depth : Nat) : bppOf depth = [2, 2, 3, 4][depth]? := by
  match depth with
  | 0 | 1 | 2 | 3 => rfl
  | n + 4 => simp [bppOf]

/-- `fb_size()` for a depth code with a format (R119). -/
theorem fbSize_of_depth_lt {s : State} (h : s.get .fbDepth < 4) :
    s.fbSize = .ok ((s.get .fbXSize + 1) * 4 / ([2, 2, 3, 4][s.get .fbDepth]?).getD 0,
      (s.get .fbYSize + 1) * (if s.get .interlace = 1 then 2 else 1)) := by
  obtain ⟨bpp, hb, -⟩ := bppOf_depth h
  simp only [State.fbSize, State.fieldCount, State.flag, beq_iff_eq, ← bppOf_eq_getElem?, hb, Option.getD_some]

/-- `fb_size()` for any other code, which only a wider depth field can hold (R118, R133). -/
theorem fbSize_of_le_depth {s : State} (h : 4 ≤ s.get .fbDepth) : s.fbSize = .error (.depth (s.get .fbDepth)) := by
  have hb : bppOf (s.get .fbDepth) = none := by
    rw [bppOf_eq_getElem?]
    exact List.getElem?_eq_none h
  simp only [State.fbSize, hb]

section Size

variable {s : State} {w h : Nat} (hz : s.fbSize = .ok (w, h))
include hz

/-- The width doubled by `hscale`, the height halved by the scaler's flag after the scale (R127). -/
theorem videoSize_of_scaled {n : Nat} (hn : scaledHeight s.config.vscaleLaw h (s.get .vscalefactor) = .ok n) :
    s.videoSize = .ok (w * (if s.get .hscale = 1 then 2 else 1), if s.get .scalerInterlace = 1 then n / 2 else n) := by
  simp only [State.videoSize, hz, hn, State.flag, beq_iff_eq, mul_ite, mul_one]

theorem videoSize_of_scale_fault {f : BlockFault}
    (hf : scaledHeight s.config.vscaleLaw h (s.get .vscalefactor) = .error f) : s.videoSize = .error f := by
  simp only [State.videoSize, hz, hf]

end Size

section Accepted

variable {s : State} (hs : s.accepts = true)
include hs

theorem execVsize_of_size {w h : Nat} (hz : s.videoSize = .ok (w, h)) :
    execVsize s = .next (s.answer (.size w h)) :=
  runIf_of_on hs (by simp only [hz])

theorem execVsize_of_fault {f : BlockFault} (hz : s.videoSize = .error f) :
    execVsize s = .next (({ s with fault := some f } : State).answer .faulted) :=
  runIf_of_raise hs (by simp only [hz])

end Accepted

/-- Settles O48: `fb_size()` has a size for the four depth codes alone (`fbSize_of_depth_lt`, `fbSize_of_le_depth`); the
law's height or its fault then gives the query's (`videoSize_of_scaled`, `videoSize_of_scale_fault`), which the operation
answers or records (`execVsize_of_size`, `execVsize_of_fault`). -/
theorem videoSizeQuery : Obligations.VideoSizeQuery := by
  intro s hs bpp w h halved
  refine ⟨fun hd => ⟨fun hlaw => ?_, fun hlaw hne => ?_, fun hlaw hzero => ?_⟩, fun hd => ?_⟩
  · exact execVsize_of_size hs (videoSize_of_scaled (fbSize_of_depth_lt hd) (by rw [hlaw]; rfl))
  · exact execVsize_of_size hs (videoSize_of_scaled (fbSize_of_depth_lt hd) (by rw [hlaw]; exact if_neg hne))
  · exact ⟨_, execVsize_of_fault hs
      (videoSize_of_scale_fault (fbSize_of_depth_lt hd) (by rw [hlaw]; exact if_pos hzero)), rfl⟩
  · have hfault : s.videoSize = .error (.depth (s.get .fbDepth)) := by
      simp only [State.videoSize, fbSize_of_le_depth hd]
    exact ⟨_, execVsize_of_fault hs hfault, rfl⟩

end Sys2Proof.Machine
end

section
/-! SUPPORT. A tick that a fault stops (60_exceptions.md): the state it leaves (R132). -/

namespace Sys2Proof.Machine

/-- In a mode other than 0 and 2 a due tick answers the state its fault stopped it in (R132). -/
theorem exec_tick_of_bad_mode {s : State} (hs : s.accepts = true) (ht : s.timer = some s.now)
    (h0 : s.get .hblankIntMode ≠ 0) (h2 : s.get .hblankIntMode ≠ 2) :
    exec .tick s = .next (({ s with
      currentLine := s.nextLine, timer := none, fault := some (.hblankMode (s.get .hblankIntMode)) } : State).answer
        .faulted) := by
  rw [exec_tick_due hs ht, tickBody_halted h0 h2, close_halted]

/-- Settles O38: modes 1 and 3 are neither of the two legal ones, so the due tick stops on its new line
(`exec_tick_of_bad_mode`). -/
theorem badHblankModeStopsTheTick : Obligations.BadHblankModeStopsTheTick := by
  intro s hs ht hmode
  simp only [List.mem_cons, List.not_mem_nil, or_false] at hmode
  exact ⟨_, exec_tick_of_bad_mode hs ht (by omega) (by omega), rfl⟩

end Sys2Proof.Machine
end

section
/-! SUPPORT. Reset (70_reset_and_hazards.md): the state `RESET` leaves (R148 to R151). -/

namespace Sys2Proof.Machine

/-- `RESET` answers, from every state, the block at its reset values, its line period that of the reset registers, the
trace begun anew with the cancel of an outstanding timer and the arming (R148 to R150). -/
theorem exec_reset (s : State) :
    exec .reset s =
      let p := nsPerSec / s.resetBlock.lineHz
      .next { s.resetBlock with
        currentLine := 0, field := false, vsync := false, linePeriodNs := p, timer := some (s.now + p)
        trace := (if s.timer = none then [] else [.timerCancel]) ++ [.timerArm (s.now + p)], reply := .done } := by
  change execReset s = _
  rw [execReset, runIf_true, close_on, cancel_eq, State.resetSpg, reconfigure_eq]
  simp only [resetBlock_timer, resetBlock_trace, if_true, List.append_nil, List.nil_append]
  rfl

/-- Every register of the file holds its reset word once the block is at its reset values (R17, R149). -/
theorem resetBlock_reg (s : State) {o : Nat} (ho : o < s.config.regMap.numRegs) :
    s.resetBlock.reg o = regResetWord s.config o :=
  resetRegs_read s.config.regReset ho

/-- Settles O49: `exec_reset` gives the state, whose registers are read by `resetBlock_reg` and whose line period is
`lineHz_eq` of them. -/
theorem resetLeavesEveryResetValue : Obligations.ResetLeavesEveryResetValue := fun s =>
  ⟨_, exec_reset s, fun _ => resetBlock_reg s, congrArg (nsPerSec / ·) (lineHz_eq s.resetBlock), rfl⟩

end Sys2Proof.Machine
end

section
/-! SUPPORT. The decoder and the encoder undo each other (30_encoding.md): what the register row of each offset is, and
what the data of a VRAM write keeps of the bus data (R72 to R78). -/

namespace Sys2Proof

open Machine

/-! ### Register writes: one row an offset (R76) -/

section Rows

variable {m : RegisterMap} {addr : Word} (data mask : Word)

/-- The row that writes a named register (R76). -/
def regRow (r : RegName) (addr data mask : Word) : Instr :=
  match r with
  | .id => .wrRegId addr data mask
  | .softreset => .wrRegSoftreset addr data mask
  | .startrender => .wrRegStartrender addr data mask
  | .taListInit => .wrRegTaListInit addr data mask
  | .taListCont => .wrRegTaListCont addr data mask
  | .taYuvTexBase => .wrRegTaYuvTexBase addr data mask
  | .spgLoad => .wrRegSpgLoad addr data mask
  | .fbRCtrl => .wrRegFbRCtrl addr data mask
  | _ => .wrReg addr data mask

/-- At the offset of a named register, which is in the file and no other's, the row is that register's own. -/
theorem decodeRegWr_at {r : RegName} (h : wordOffset addr = m.offset r) :
    decodeRegWr m addr data mask = regRow r addr data mask := by
  have hin : ¬ m.numRegs ≤ m.offset r := Nat.not_le.2 (m.offset_lt r)
  simp only [decodeRegWr, h, if_neg hin, m.offset_inj]
  cases r <;> rfl

/-- At an offset of plain storage, or outside the file, the row is `wr.reg`. -/
theorem decodeRegWr_plain (h : isPlainOffset m (wordOffset addr) = true) :
    decodeRegWr m addr data mask = .wrReg addr data mask := by
  simp only [isPlainOffset, specialRegs, List.all_cons, List.all_nil, bne_iff_ne, Bool.and_true,
    Bool.and_eq_true] at h
  obtain ⟨h1, h2, h3, h4, h5, h6, h7, h8⟩ := h
  simp only [decodeRegWr, h1.symm, h2.symm, h3.symm, h4.symm, h5.symm, h6.symm, h7.symm, h8.symm, if_false, ite_self]

end Rows

/-- Whatever its row, a register write encodes to the transaction it was decoded from. -/
theorem encode_decodeRegWr (m : RegisterMap) (addr data mask : Word) :
    encode (decodeRegWr m addr data mask) = .regWr addr data mask := by
  unfold decodeRegWr
  dsimp only
  repeat' split
  all_goals rfl

/-- The row a register write decodes to is the one whose condition its address meets. -/
theorem wellFormed_decodeRegWr (m : RegisterMap) (addr data mask : Word) :
    (decodeRegWr m addr data mask).wellFormed m = true := by
  by_cases hp : isPlainOffset m (wordOffset addr) = true
  · rw [decodeRegWr_plain data mask hp]
    exact hp
  · simp only [isPlainOffset, List.all_eq_true, bne_iff_ne, not_forall, not_not] at hp
    obtain ⟨r, hr, ho⟩ := hp
    rw [decodeRegWr_at data mask ho.symm]
    simp only [specialRegs, List.mem_cons, List.not_mem_nil, or_false] at hr
    rcases hr with rfl | rfl | rfl | rfl | rfl | rfl | rfl | rfl <;> exact beq_iff_eq.2 ho.symm

/-! ### The data of a VRAM write (R75) -/

/-- Data of `n` bytes put on the bus and cut to its width again is the data. -/
theorem setWidth_of_bus {n : Nat} (h : n ≤ 64) (d : BitVec n) : (d.setWidth 64).setWidth n = d := by
  rw [BitVec.setWidth_setWidth_of_le _ h, BitVec.setWidth_eq]

/-- Bus data cut to `n` bytes and put on the bus again is the data under the mask of `n` bytes. -/
theorem bus_of_setWidth (d : DWord) (n : Nat) : (d.setWidth (8 * n)).setWidth 64 = d &&& maskOf n := by
  apply BitVec.eq_of_getLsbD_eq
  intro i hi
  rw [BitVec.getLsbD_setWidth, BitVec.getLsbD_setWidth, BitVec.getLsbD_and, maskOf, BitVec.getLsbD_ofNat,
    Nat.testBit_two_pow_sub_one]
  simp [hi, Bool.and_comm]

/-! ### The obligations -/

/-- Settles O1: a register write by its row (`decodeRegWr_at`, `decodeRegWr_plain`), a VRAM write by its data's width
(`setWidth_of_bus`); the other formats keep their operands as they are. -/
theorem encodeThenDecodeReturnsInstruction : Obligations.EncodeThenDecodeReturnsInstruction := by
  intro m i h
  have hdecode {x j : Instr} (hx : x = j) : (Except.ok x : Except Reject Instr) = .ok j := congrArg _ hx
  cases i with
  | wrRegId | wrRegSoftreset | wrRegStartrender | wrRegTaListInit | wrRegTaListCont | wrRegTaYuvTexBase | wrRegSpgLoad
  | wrRegFbRCtrl => exact hdecode (decodeRegWr_at _ _ (beq_iff_eq.1 h))
  | wrReg => exact hdecode (decodeRegWr_plain _ _ h)
  | wrV32x1 addr d => exact hdecode (congrArg (Instr.wrV32x1 addr) (setWidth_of_bus (by decide) d))
  | wrV32x2 addr d => exact hdecode (congrArg (Instr.wrV32x2 addr) (setWidth_of_bus (by decide) d))
  | wrV32x4 addr d => exact hdecode (congrArg (Instr.wrV32x4 addr) (setWidth_of_bus (by decide) d))
  | wrV64x1 addr d => exact hdecode (congrArg (Instr.wrV64x1 addr) (setWidth_of_bus (by decide) d))
  | wrV64x2 addr d => exact hdecode (congrArg (Instr.wrV64x2 addr) (setWidth_of_bus (by decide) d))
  | wrV64x4 addr d => exact hdecode (congrArg (Instr.wrV64x4 addr) (setWidth_of_bus (by decide) d))
  | _ => rfl

/-- What a decoded operation's own transaction is: the one decoded, the data of a VRAM write under its mask (R75). -/
def Transaction.canonical : Transaction → Transaction
  | .v32Wr addr mask data => .v32Wr addr mask (data &&& mask)
  | .v64Wr addr mask data => .v64Wr addr mask (data &&& mask)
  | t => t

theorem encode_of_decode {m : RegisterMap} {t : Transaction} {i : Instr} (h : decode m t = .ok i) :
    encode i = t.canonical := by
  cases t with
  | regWr addr data mask => cases h; exact encode_decodeRegWr m addr data mask
  | v32Rd addr mask => rcases Laws.decodeWidth_ok h with ⟨rfl, rfl⟩ | ⟨rfl, rfl⟩ | ⟨rfl, rfl⟩ | ⟨rfl, rfl⟩ <;> rfl
  | v64Rd addr mask => rcases Laws.decodeWidth_ok h with ⟨rfl, rfl⟩ | ⟨rfl, rfl⟩ | ⟨rfl, rfl⟩ | ⟨rfl, rfl⟩ <;> rfl
  | v32Wr addr mask data =>
    rcases Laws.decodeWidth_ok h with ⟨rfl, rfl⟩ | ⟨rfl, rfl⟩ | ⟨rfl, rfl⟩ | ⟨rfl, rfl⟩
    · exact congrArg (Transaction.v32Wr addr (maskOf 1)) (bus_of_setWidth data 1)
    · exact congrArg (Transaction.v32Wr addr (maskOf 2)) (bus_of_setWidth data 2)
    · exact congrArg (Transaction.v32Wr addr (maskOf 4)) (bus_of_setWidth data 4)
    · exact congrArg (Transaction.v32Wr addr (maskOf 8)) (BitVec.and_allOnes (x := data)).symm
  | v64Wr addr mask data =>
    rcases Laws.decodeWidth_ok h with ⟨rfl, rfl⟩ | ⟨rfl, rfl⟩ | ⟨rfl, rfl⟩ | ⟨rfl, rfl⟩
    · exact congrArg (Transaction.v64Wr addr (maskOf 1)) (bus_of_setWidth data 1)
    · exact congrArg (Transaction.v64Wr addr (maskOf 2)) (bus_of_setWidth data 2)
    · exact congrArg (Transaction.v64Wr addr (maskOf 4)) (bus_of_setWidth data 4)
    · exact congrArg (Transaction.v64Wr addr (maskOf 8)) (BitVec.and_allOnes (x := data)).symm
  | _ => cases h; rfl

/-- Only a register write's row has a condition, which its decoding meets. -/
theorem wellFormed_of_decode {m : RegisterMap} {t : Transaction} {i : Instr} (h : decode m t = .ok i) :
    i.wellFormed m = true := by
  cases t with
  | regWr addr data mask => cases h; exact wellFormed_decodeRegWr m addr data mask
  | v32Rd | v32Wr | v64Rd | v64Wr =>
    rcases Laws.decodeWidth_ok h with ⟨-, rfl⟩ | ⟨-, rfl⟩ | ⟨-, rfl⟩ | ⟨-, rfl⟩ <;> rfl
  | _ => cases h; rfl

/-- Settles O2: `wellFormed_of_decode`, from which O1 gives the round trip, and `encode_of_decode`. -/
theorem decodedInstructionIsWellFormedAndComplete : Obligations.DecodedInstructionIsWellFormedAndComplete := by
  intro m t i h
  have hwf := wellFormed_of_decode h
  refine ⟨hwf, encodeThenDecodeReturnsInstruction m i hwf, ?_⟩
  cases t <;> exact encode_of_decode h

/-- Settles O4: under the default map the offsets and the masks are numerals, so the decoder computes each. -/
theorem specTransactionsDecode : Obligations.SpecTransactionsDecode :=
  ⟨rfl, rfl, rfl, rfl, rfl, rfl, rfl, rfl⟩

end Sys2Proof
end

section
/-! SUPPORT. How an operation ends (60_exceptions.md): refused where the block takes no steps, and otherwise with a reply
that tells a recorded fault from a completion (R129, R130, R136). -/

namespace Sys2Proof.Machine

/-- Every operation but `RESET` and `TEARDOWN` is accepted by a live block without a fault alone (R136). -/
theorem exec_of_not_accepts {s : State} (hs : s.accepts = false) {i : Instr} (hr : i ≠ .reset) (ht : i ≠ .teardown) :
    exec i s = .next { s with reply := .noStep } := by
  cases i with
  | reset => exact absurd rfl hr
  | teardown => exact absurd rfl ht
  | _ => exact if_neg (by simp [hs])

/-- Settles O11: with a fault set, or torn down, the block does not accept (`exec_of_not_accepts`); `TEARDOWN` asks for
`live` alone. -/
theorem faultedOrTornDownBlockTakesNoStep : Obligations.FaultedOrTornDownBlockTakesNoStep := by
  refine ⟨fun s i hf hr ht => ?_, fun s i hl hr => ?_⟩
  · exact exec_of_not_accepts (Bool.eq_false_iff.2 fun hs => hf ((accepts_iff s).1 hs).1) hr ht
  · by_cases ht : i = .teardown
    · subst ht
      exact if_neg (by simp [hl])
    · exact exec_of_not_accepts (by simp [State.accepts, hl]) hr ht

/-! ### The reply (log 3) -/

/-- The body of an operation, run from `s`, ends by answering a result with the fault left as it was, or stops at a fault
where none was set. -/
def Flow.Answers (s : State) : Flow → Prop
  | .on t => t.fault = s.fault ∧ t.reply ≠ .noStep ∧ t.reply ≠ .faulted
  | .halted t => s.fault = none ∧ t.fault ≠ none

theorem answers_on {s t : State} (hf : t.fault = s.fault) {r : Reply} (hr : r ≠ .noStep ∧ r ≠ .faulted) :
    (Flow.on (t.answer r)).Answers s := ⟨hf, hr⟩

theorem answers_raise {s t : State} (hs : s.fault = none) (f : BlockFault) : (t.raise f).Answers s :=
  ⟨hs, Option.some_ne_none f⟩

/-- An operation whose body answers in this way tells by its reply how it ended. -/
theorem reply_of_runIf {p : Bool} {body : State → Flow} {s t : State} (h : runIf p body s = .next t)
    (hb : p = true → (body s).Answers s) :
    (t.reply = .noStep → t = { s with reply := .noStep }) ∧
      (t.reply = .faulted ↔ s.fault = none ∧ t.fault ≠ none) := by
  cases p with
  | false =>
    cases h
    refine ⟨fun _ => rfl, fun hr => ?_, fun ⟨hs, ht⟩ => absurd hs ht⟩
    cases hr
  | true =>
    have hans := hb rfl
    rw [runIf_true] at h
    cases h
    cases hf : body s with
    | on u =>
      obtain ⟨hfault, hno, hfa⟩ := hf ▸ hans
      exact ⟨fun hr => absurd hr hno, fun hr => absurd hr hfa, fun ⟨hs, hu⟩ => absurd (hfault.trans hs) hu⟩
    | halted u =>
      rw [hf] at hans
      have hu : s.fault = none ∧ u.fault ≠ none := hans
      refine ⟨fun hr => ?_, fun _ => hu, fun _ => rfl⟩
      cases hr

section Bodies

variable {s : State} (hs : s.fault = none)
include hs

theorem guestRead_answers (v : View) (n : Nat) (a : Word) : (guestRead v n a s).Answers s := by
  rcases guestRead_cases v n a s with ⟨f, -, h⟩ | ⟨-, h⟩ <;> rw [h]
  · exact answers_raise (t := s) hs f
  · exact answers_on rfl (by simp)

theorem guestWrite_answers (v : View) (n : Nat) (a : Word) (d : Nat) : (guestWrite v n a d s).Answers s := by
  rcases guestWrite_cases v n a d s with ⟨f, -, h⟩ | ⟨-, h⟩ <;> rw [h]
  · exact answers_raise (t := s) hs f
  · exact ⟨rfl, by simp⟩

theorem markWords_answers {u : State} (hu : u.fault = s.fault) (l : List Word) :
    ((u.markWords l).andThen fun t => .on (State.answer { t with gotStartrender := true } .done)).Answers s := by
  rcases markWords_cases l u with ⟨m, h, -⟩ | ⟨m, x, h, -⟩ <;> rw [h]
  · exact answers_on hu (by simp)
  · exact ⟨hs, by simp⟩

theorem tickBody_answers : s.tickBody.Answers s := by
  by_cases hm : s.get .hblankIntMode = 0 ∨ s.get .hblankIntMode = 2
  · rw [tickBody_on hm]
    obtain ⟨l, -, ⟨f, g, c, o, -, -, h⟩ | ⟨c, x, h⟩⟩ := stepEdges_frame s.vsync s.atLine <;> rw [h]
    · exact answers_on rfl (by simp)
    · exact ⟨hs, by simp⟩
  · rw [tickBody_halted (fun h => hm (Or.inl h)) (fun h => hm (Or.inr h))]
    exact ⟨hs, by simp⟩

end Bodies

theorem reconfigure_fault (s : State) : s.reconfigure.fault = s.fault := by rw [reconfigure_eq]

/-- Every operation but `RESET` tells by its reply how it ended. -/
theorem reply_of_exec {i : Instr} (hi : i ≠ .reset) {s t : State} (h : exec i s = .next t) :
    (t.reply = .noStep → t = { s with reply := .noStep }) ∧
      (t.reply = .faulted ↔ s.fault = none ∧ t.fault ≠ none) := by
  have noFault (hs : s.accepts = true) : s.fault = none := ((accepts_iff s).1 hs).1
  cases i <;> simp only [exec] at h
  case reset => exact absurd rfl hi
  case rdReg | wrReg =>
    refine reply_of_runIf h fun hs => ?_
    split
    · exact answers_raise (noFault hs) _
    · exact answers_on rfl (by simp)
  case wrRegId | wrRegTaYuvTexBase => exact reply_of_runIf h fun _ => answers_on rfl (by simp)
  case wrRegSoftreset | wrRegTaListInit | wrRegTaListCont =>
    exact reply_of_runIf h fun _ => answers_on (emitIf_fault s _ _) (by simp)
  case wrRegSpgLoad | wrRegFbRCtrl =>
    exact reply_of_runIf h fun _ => answers_on (reconfigure_fault _) (by simp)
  case wrRegStartrender =>
    refine reply_of_runIf h fun hs => ?_
    split
    · exact answers_on rfl (by simp)
    · exact markWords_answers (u := s.emit .pipelineStartRender) (noFault hs) rfl _
  case rdV32x1 | rdV32x2 | rdV32x4 | rdV32x8 | rdV64x1 | rdV64x2 | rdV64x4 | rdV64x8 =>
    exact reply_of_runIf h fun hs => guestRead_answers (noFault hs) _ _ _
  case wrV32x1 | wrV32x2 | wrV32x4 | wrV32x8 | wrV64x1 | wrV64x2 | wrV64x4 | wrV64x8 =>
    exact reply_of_runIf h fun hs => guestWrite_answers (noFault hs) _ _ _ _
  case tick => exact reply_of_runIf h fun hs => tickBody_answers (noFault (Bool.and_eq_true_iff.1 hs).1)
  case teardown => exact reply_of_runIf h fun _ => answers_on (cancel_fault s) (by simp)
  case vsize =>
    refine reply_of_runIf h fun hs => ?_
    cases s.videoSize with
    | error f => exact answers_raise (noFault hs) f
    | ok p => exact answers_on rfl (by simp)

/-- Settles O12: `reply_of_exec`; `RESET` answers `done` with no fault set (`exec_reset`). -/
theorem theReplySaysHowTheOperationEnded : Obligations.TheReplySaysHowTheOperationEnded := by
  intro i s t h
  by_cases hi : i = .reset
  · subst hi
    rw [exec_reset] at h
    cases h
    simp
  · obtain ⟨hno, hfa⟩ := reply_of_exec hi h
    exact ⟨hno, hfa, fun hr => absurd hr hi⟩

end Sys2Proof.Machine
end

section
/-! SUPPORT. The shapes a next state can have, each with the operations that have it (`effect_of_exec`, cut by shape and no
longer by operation): what holds of every operation is a case split over eleven shapes. -/

namespace Sys2Proof.Machine

/-- The registers nothing stores to: `ID` and the triggers (R13, R83 to R86, R90). -/
def fixedRegs : List RegName := [.id, .softreset, .startrender, .taListInit, .taListCont]

/-- An operation that writes VRAM for the guest: one of the eight write rows. -/
def Instr.IsGuestWrite (i : Instr) : Prop := ∃ addr data, i ∈ (writeRows addr data).map fun p => p.2.2

/-- A write to `STARTRENDER` that triggers (R84). -/
def Instr.IsTrigger (i : Instr) : Prop := ∃ addr data mask, i = .wrRegStartrender addr data mask ∧ data ≠ 0

/-- What an operation did, by the shape of its next state. -/
inductive Shape (i : Instr) (s t : State) : Prop where
  | quiet (h : s.Quiet t)
  | refused (h : s.Refused t)
  | called (h : s.Called t)
  | wrote (hi : Instr.IsGuestWrite i) (h : s.Wrote t)
  | marked (hi : Instr.IsTrigger i) (h : s.Marked t)
  /-- a well-formed store is to none of the fixed registers -/
  | stored (o : Nat) (ho : i.wellFormed s.config.regMap = true → ∀ r ∈ fixedRegs, s.off r ≠ o) (h : s.Stored o t)
  | retimed (r : RegName) (hr : r ∉ fixedRegs) (h : s.Retimed (s.off r) t)
  | ticked (hi : i = .tick) (h : s.Ticked t)
  | tickStopped (hi : i = .tick) (h : s.TickStopped t)
  | restarted (hi : i = .reset) (h : s.Restarted t)
  | tornDown (hi : i = .teardown) (h : s.TornDown t)

theorem shape_of_reading {i : Instr} {s t : State} (h : s.Quiet t ∨ s.Refused t) : Shape i s t :=
  h.elim .quiet .refused

theorem shape_of_calling {i : Instr} {s t : State} (h : s.Quiet t ∨ s.Called t) : Shape i s t := h.elim .quiet .called

theorem shape_of_retiming {i : Instr} {s t : State} {r : RegName} (hr : r ∉ fixedRegs)
    (h : s.Quiet t ∨ s.Retimed (s.off r) t) : Shape i s t := h.elim .quiet (.retimed r hr)

theorem shape_of_writing {i : Instr} {s t : State} (hi : Instr.IsGuestWrite i)
    (h : s.Quiet t ∨ s.Refused t ∨ s.Wrote t) : Shape i s t := h.elim .quiet (Or.elim · .refused (.wrote hi))

/-- Every operation ends in one of the shapes. -/
theorem shape_of_exec {i : Instr} {s t : State} (h : exec i s = .next t) : Shape i s t := by
  have he := effect_of_exec h
  cases i with
  | rdReg | rdV32x1 | rdV32x2 | rdV32x4 | rdV32x8 | rdV64x1 | rdV64x2 | rdV64x4 | rdV64x8 | vsize =>
    exact shape_of_reading he
  | wrRegId => exact .quiet he
  | wrRegSoftreset | wrRegTaListInit | wrRegTaListCont => exact shape_of_calling he
  | wrRegStartrender addr data mask =>
    rcases he with hq | ⟨hd, hm⟩
    · exact .quiet hq
    · exact .marked ⟨addr, data, mask, rfl, hd⟩ hm
  | wrRegTaYuvTexBase =>
    rcases he with hq | hs
    · exact .quiet hq
    · exact .stored _ (fun _ r hr => by simpa using fun e => by subst e; simp [fixedRegs] at hr) hs
  | wrRegSpgLoad => exact shape_of_retiming (r := .spgLoad) (by decide) he
  | wrRegFbRCtrl => exact shape_of_retiming (r := .fbRCtrl) (by decide) he
  | wrReg addr data mask =>
    rcases he with hq | hr | hs
    · exact .quiet hq
    · exact .refused hr
    · refine .stored _ (fun hwf r hr => ?_) hs
      have hplain : ∀ q ∈ specialRegs, s.config.regMap.offset q ≠ wordOffset addr := by
        simpa only [Instr.wellFormed, isPlainOffset, List.all_eq_true, bne_iff_ne] using hwf
      exact hplain r (by revert r; decide)
  | wrV32x1 addr data | wrV32x2 addr data | wrV32x4 addr data | wrV32x8 addr data | wrV64x1 addr data
  | wrV64x2 addr data | wrV64x4 addr data | wrV64x8 addr data =>
    exact shape_of_writing ⟨addr, data.setWidth 64, by simp [writeRows]⟩ he
  | tick =>
    rcases he with hq | ht | hx
    · exact .quiet hq
    · exact .ticked rfl ht
    · exact .tickStopped rfl hx
  | reset => exact .restarted rfl he
  | teardown =>
    rcases he with hq | hd
    · exact .quiet hq
    · exact .tornDown rfl hd

/-! ### What every operation keeps -/

/-- The parameters, virtual time and the waiting moves (R5, R146). -/
theorem Shape.frame {i : Instr} {s t : State} (h : Shape i s t) :
    t.config = s.config ∧ t.now = s.now ∧ t.inbox = s.inbox := by
  cases h with
  | quiet h => rw [h]; exact ⟨rfl, rfl, rfl⟩
  | refused h => obtain ⟨-, f, rfl⟩ := h; exact ⟨rfl, rfl, rfl⟩
  | called h => obtain ⟨-, l, -, rfl⟩ := h; exact ⟨rfl, rfl, rfl⟩
  | wrote _ h => obtain ⟨-, m, -, rfl⟩ := h; exact ⟨rfl, rfl, rfl⟩
  | marked _ h => obtain ⟨-, m, -, rfl | ⟨f, rfl⟩⟩ := h <;> exact ⟨rfl, rfl, rfl⟩
  | stored _ _ h => obtain ⟨-, -, w, l, -, rfl⟩ := h; exact ⟨rfl, rfl, rfl⟩
  | retimed _ _ h => obtain ⟨-, w, p, l, -, -, rfl⟩ := h; exact ⟨rfl, rfl, rfl⟩
  | ticked _ h => obtain ⟨-, -, f, v, g, c, o, l, -, -, -, rfl⟩ := h; exact ⟨rfl, rfl, rfl⟩
  | tickStopped _ h => obtain ⟨-, -, v, c, f, l, -, rfl⟩ := h; exact ⟨rfl, rfl, rfl⟩
  | restarted _ h => obtain ⟨p, l, -, -, rfl⟩ := h; exact ⟨rfl, rfl, rfl⟩
  | tornDown _ h => obtain ⟨-, l, -, rfl⟩ := h; exact ⟨rfl, rfl, rfl⟩

/-- Settles O10: every operation has a next state (`exec_effect`), whose shape keeps the three (`Shape.frame`). -/
theorem everyOperationEndsInANextState : Obligations.EveryOperationEndsInANextState := by
  intro i s
  obtain ⟨t, ht, -⟩ := exec_effect i s
  exact ⟨t, ht, (shape_of_exec ht).frame⟩

/-- The timing state, the counter and the output buffer, but for a tick and reset (R38, R42, R43). -/
theorem Shape.timing {i : Instr} {s t : State} (h : Shape i s t) (hi : i ≠ .tick) (hr : i ≠ .reset) :
    t.currentLine = s.currentLine ∧ t.field = s.field ∧ t.vsync = s.vsync ∧ t.vblankCount = s.vblankCount ∧
      t.fbOut = s.fbOut := by
  cases h with
  | quiet h => rw [h]; exact ⟨rfl, rfl, rfl, rfl, rfl⟩
  | refused h => obtain ⟨-, f, rfl⟩ := h; exact ⟨rfl, rfl, rfl, rfl, rfl⟩
  | called h => obtain ⟨-, l, -, rfl⟩ := h; exact ⟨rfl, rfl, rfl, rfl, rfl⟩
  | wrote _ h => obtain ⟨-, m, -, rfl⟩ := h; exact ⟨rfl, rfl, rfl, rfl, rfl⟩
  | marked _ h => obtain ⟨-, m, -, rfl | ⟨f, rfl⟩⟩ := h <;> exact ⟨rfl, rfl, rfl, rfl, rfl⟩
  | stored _ _ h => obtain ⟨-, -, w, l, -, rfl⟩ := h; exact ⟨rfl, rfl, rfl, rfl, rfl⟩
  | retimed _ _ h => obtain ⟨-, w, p, l, -, -, rfl⟩ := h; exact ⟨rfl, rfl, rfl, rfl, rfl⟩
  | ticked hi' _ | tickStopped hi' _ => exact absurd hi' hi
  | restarted hr' _ => exact absurd hr' hr
  | tornDown _ h => obtain ⟨-, l, -, rfl⟩ := h; exact ⟨rfl, rfl, rfl, rfl, rfl⟩

/-- The Frame-Presented Flag: a trigger may set it, a tick clear it, reset clears it, nothing else touches it (R41). -/
theorem Shape.flag {i : Instr} {s t : State} (h : Shape i s t) :
    t.gotStartrender = s.gotStartrender ∨ (Instr.IsTrigger i ∧ t.gotStartrender = true) ∨
      ((i = .tick ∨ i = .reset) ∧ t.gotStartrender = false) := by
  cases h with
  | quiet h => rw [h]; exact Or.inl rfl
  | refused h => obtain ⟨-, f, rfl⟩ := h; exact Or.inl rfl
  | called h => obtain ⟨-, l, -, rfl⟩ := h; exact Or.inl rfl
  | wrote _ h => obtain ⟨-, m, -, rfl⟩ := h; exact Or.inl rfl
  | marked hi h =>
    obtain ⟨-, m, -, rfl | ⟨f, rfl⟩⟩ := h
    · exact Or.inr (Or.inl ⟨hi, rfl⟩)
    · exact Or.inl rfl
  | stored _ _ h => obtain ⟨-, -, w, l, -, rfl⟩ := h; exact Or.inl rfl
  | retimed _ _ h => obtain ⟨-, w, p, l, -, -, rfl⟩ := h; exact Or.inl rfl
  | ticked hi h =>
    obtain ⟨-, -, f, v, g, c, o, l, -, hg, -, rfl⟩ := h
    cases g with
    | false => exact Or.inr (Or.inr ⟨Or.inl hi, rfl⟩)
    | true => exact Or.inl (hg rfl).symm
  | tickStopped _ h => obtain ⟨-, -, v, c, f, l, -, rfl⟩ := h; exact Or.inl rfl
  | restarted hi h => obtain ⟨p, l, -, -, rfl⟩ := h; exact Or.inr (Or.inr ⟨Or.inr hi, rfl⟩)
  | tornDown _ h => obtain ⟨-, l, -, rfl⟩ := h; exact Or.inl rfl

/-- Settles O53: `Shape.timing` and `Shape.flag`. -/
theorem timingStateAndFlagsHaveTheirWritersOnly : Obligations.TimingStateAndFlagsHaveTheirWritersOnly := by
  intro i s t h
  have hshape := shape_of_exec h
  refine ⟨hshape.timing, fun hs ht => ?_, fun hs ht => ?_⟩
  · rcases hshape.flag with he | ⟨hi, -⟩ | ⟨-, hf⟩
    · simp [he, hs] at ht
    · exact hi
    · simp [hf] at ht
  · rcases hshape.flag with he | ⟨-, hf⟩ | ⟨hi, -⟩
    · simp [he, hs] at ht
    · simp [hf] at ht
    · exact hi

/-- VRAM, but for a guest write and the marking of a trigger (R63). -/
theorem Shape.vram {i : Instr} {s t : State} (h : Shape i s t) :
    t.vram = s.vram ∨ Instr.IsTrigger i ∨ Instr.IsGuestWrite i := by
  cases h with
  | quiet h => rw [h]; exact Or.inl rfl
  | refused h => obtain ⟨-, f, rfl⟩ := h; exact Or.inl rfl
  | called h => obtain ⟨-, l, -, rfl⟩ := h; exact Or.inl rfl
  | wrote hi _ => exact Or.inr (Or.inr hi)
  | marked hi _ => exact Or.inr (Or.inl hi)
  | stored _ _ h => obtain ⟨-, -, w, l, -, rfl⟩ := h; exact Or.inl rfl
  | retimed _ _ h => obtain ⟨-, w, p, l, -, -, rfl⟩ := h; exact Or.inl rfl
  | ticked _ h => obtain ⟨-, -, f, v, g, c, o, l, -, -, -, rfl⟩ := h; exact Or.inl rfl
  | tickStopped _ h => obtain ⟨-, -, v, c, f, l, -, rfl⟩ := h; exact Or.inl rfl
  | restarted _ h => obtain ⟨p, l, -, -, rfl⟩ := h; exact Or.inl rfl
  | tornDown _ h => obtain ⟨-, l, -, rfl⟩ := h; exact Or.inl rfl

theorem exec_vramByte_ne {i : Instr} {s t : State} {k : Nat} (h : exec i s = .next t)
    (hne : t.vramByte k ≠ s.vramByte k) : Instr.IsTrigger i ∨ Instr.IsGuestWrite i :=
  (shape_of_exec h).vram.resolve_left fun he => hne (by rw [State.vramByte, he]; rfl)

/-- Settles O54: an operation by its shape (`exec_vramByte_ne`); a step is a tick, which is no such operation, or a move
(`step_cases`, `serveMove_cases`), which is an operation or the memory subsystem's write to its one byte. -/
theorem noOperationButGuestWritesAndMarkingChangesVram :
    Obligations.NoOperationButGuestWritesAndMarkingChangesVram := by
  refine ⟨fun i s t k h hne => exec_vramByte_ne h hne, fun s t k h hne => ?_⟩
  rcases step_cases h with ⟨d, -, -, htick⟩ | ⟨r, rest, hin, -, hmove⟩
  · rcases exec_vramByte_ne (s := s.atTime d) htick hne with ⟨addr, data, mask, hi, -⟩ | ⟨addr, data, hi⟩
    · cases hi
    · simp [writeRows] at hi
  · refine ⟨r, rest, hin, ?_⟩
    rcases serveMove_cases hmove with ⟨x, i, hx, hd, he⟩ | hq | hr | ⟨a, b, hab, rfl⟩
    · exact Or.inr ⟨x, i, hx, hd, exec_vramByte_ne (s := (s.take rest).atTime (s.moveTime r)) he hne⟩
    · exact absurd (by rw [hq]; rfl) hne
    · obtain ⟨-, f, rfl⟩ := hr
      exact absurd rfl hne
    · rw [memoryWrite_vramByte] at hne
      split at hne
      · next ha => exact Or.inl ⟨b, ha.1 ▸ hab⟩
      · exact absurd rfl hne

/-- A set fault, and a torn-down block, until reset: only `TEARDOWN` is accepted then, which sets `live` false and leaves
the fault (R45, R46, R112). -/
theorem Shape.fault_live {i : Instr} {s t : State} (h : Shape i s t) (hi : i ≠ .reset) :
    (s.fault ≠ none → t.fault = s.fault) ∧ (s.live = false → t.live = false) := by
  have accepted (hs : s.accepts = true) :
      (s.fault ≠ none → t.fault = s.fault) ∧ (s.live = false → t.live = false) := by
    obtain ⟨hf, hl⟩ := (accepts_iff s).1 hs
    exact ⟨fun hn => absurd hf hn, fun hn => absurd (hl.symm.trans hn) (by decide)⟩
  cases h with
  | quiet h => rw [h]; exact ⟨fun _ => rfl, id⟩
  | refused h | called h => exact accepted h.1
  | wrote _ h | marked _ h | stored _ _ h | retimed _ _ h | ticked _ h | tickStopped _ h => exact accepted h.1
  | restarted hi' _ => exact absurd hi' hi
  | tornDown _ h => obtain ⟨-, l, -, rfl⟩ := h; exact ⟨fun _ => rfl, fun _ => rfl⟩

/-- Settles O55: `Shape.fault_live`. -/
theorem onlyResetClearsAFault : Obligations.OnlyResetClearsAFault :=
  fun _ _ _ h hi => (shape_of_exec h).fault_live hi

/-- The trace is added to at its end, until reset (R47). -/
theorem Shape.trace {i : Instr} {s t : State} (h : Shape i s t) (hi : i ≠ .reset) :
    ∃ added, t.trace = s.trace ++ added := by
  cases h with
  | quiet h => rw [h]; exact ⟨[], (List.append_nil _).symm⟩
  | refused h => obtain ⟨-, f, rfl⟩ := h; exact ⟨[], (List.append_nil _).symm⟩
  | called h => obtain ⟨-, l, -, rfl⟩ := h; exact ⟨l, rfl⟩
  | wrote _ h => obtain ⟨-, m, -, rfl⟩ := h; exact ⟨[], (List.append_nil _).symm⟩
  | marked _ h => obtain ⟨-, m, -, rfl | ⟨f, rfl⟩⟩ := h <;> exact ⟨_, rfl⟩
  | stored _ _ h => obtain ⟨-, -, w, l, -, rfl⟩ := h; exact ⟨l, rfl⟩
  | retimed _ _ h => obtain ⟨-, w, p, l, -, -, rfl⟩ := h; exact ⟨l, rfl⟩
  | ticked _ h => obtain ⟨-, -, f, v, g, c, o, l, -, -, -, rfl⟩ := h; exact ⟨l, rfl⟩
  | tickStopped _ h => obtain ⟨-, -, v, c, f, l, -, rfl⟩ := h; exact ⟨l, rfl⟩
  | restarted hi' _ => exact absurd hi' hi
  | tornDown _ h => obtain ⟨-, l, -, rfl⟩ := h; exact ⟨l, rfl⟩

/-- Settles O56: `Shape.trace`. -/
theorem traceOnlyGrowsUntilReset : Obligations.TraceOnlyGrowsUntilReset :=
  fun _ _ _ h hi => (shape_of_exec h).trace hi

end Sys2Proof.Machine
end

section
/-! SUPPORT. Steps (60_exceptions.md): which turn a state takes, the virtual time it is taken at, and how a run ends (R146,
R154, R160). -/

namespace Sys2Proof.Machine

/-! ### Whose turn it is -/

section Turns

variable {s : State} {d : Nat}

theorem step_of_goesFirst {r : Request} {rest : List Request} (hin : s.inbox = r :: rest)
    (hg : ∀ d, s.pendingTick = some d → s.goesFirst r d = true) :
    step s = serveMove r.move { s with inbox := rest, now := s.moveTime r } := by
  rcases turn_cases s with ⟨-, hnil, -⟩ | ⟨d, -, hp, hlate⟩ | ⟨q, qs, ht, hq, -⟩
  · simp [hin] at hnil
  · exact absurd (hlate r rest hin) (by simp [hg d hp])
  · obtain ⟨rfl, rfl⟩ : q = r ∧ qs = rest := by simpa [hin, eq_comm] using hq
    rw [step, ht]
    rfl

theorem step_of_pendingTick (hp : s.pendingTick = some d) (hn : s.now ≤ d)
    (hlate : ∀ r rest, s.inbox = r :: rest → s.goesFirst r d = false) : step s = exec .tick { s with now := d } := by
  rcases turn_cases s with ⟨-, -, hnone⟩ | ⟨e, ht, he, -⟩ | ⟨r, rest, -, hin, hg⟩
  · simp [hp] at hnone
  · obtain rfl : d = e := Option.some.inj (hp.symm.trans he)
    rw [step, ht]
    exact if_pos hn
  · exact absurd (hg d hp) (by simp [hlate r rest hin])

/-- A move but an explicit `TICK` is made at its own time while a tick is pending. -/
theorem moveTime_of_pendingTick {r : Request} (hp : s.pendingTick = some d) (hm : r.move ≠ .bus .tick) :
    s.moveTime r = max s.now r.time := by
  unfold State.moveTime
  rw [hp]
  split
  · next htick _ => exact absurd htick hm
  · rfl
  · next hnone => cases hnone

/-- It goes before the tick if that time is earlier, or the same and its bit says so. -/
theorem goesFirst_of_pendingTick {r : Request} (hp : s.pendingTick = some d) (hm : r.move ≠ .bus .tick) :
    s.goesFirst r d = true ↔ max s.now r.time < d ∨ (max s.now r.time = d ∧ r.beforeTick = true) := by
  unfold State.goesFirst
  split
  · next htick => exact absurd htick hm
  · simp only [moveTime_of_pendingTick hp hm, Bool.or_eq_true, Bool.and_eq_true, decide_eq_true_eq]

end Turns

/-! ### The obligations on one step -/

/-- The memory subsystem's write changes VRAM alone (R44). -/
theorem memoryWrite_eq (s : State) (a : Nat) (b : Byte) :
    s.memoryWrite a b = { s with vram := (s.memoryWrite a b).vram } := by
  unfold State.memoryWrite
  split <;> rfl

/-- A transaction whose mask is refused faults a block that takes steps, and leaves any other as it was. -/
theorem serveMove_refused {s : State} {x : Transaction} {mask : DWord}
    (hx : decode s.config.regMap x = .error (.badMask mask)) :
    ∃ t, serveMove (.bus x) s = .next t ∧
      t = { s with fault := if s.accepts then some (.badMask mask) else s.fault, reply := t.reply } := by
  by_cases hs : s.accepts = true
  · exact ⟨_, serveMove_badMask hs hx, by rw [if_pos hs]; rfl⟩
  · have hserve : serveMove (.bus x) s = .next (s.answer .noStep) := by
      simp only [serveMove, hx, execReject, Bool.eq_false_iff.2 hs, runIf_false]
    exact ⟨_, hserve, by rw [if_neg hs]; rfl⟩

/-- Settles O6: the move goes first (`step_of_goesFirst`), and `serveMove` is `exec` of what it decodes to, the refusal by
name (`serveMove_refused`), or the one byte written (`memoryWrite_eq`, `memoryWrite_vramByte`). -/
theorem stepRunsTheDecodedMove : Obligations.StepRunsTheDecodedMove := by
  intro s r rest hin hg
  have hstep := step_of_goesFirst hin hg
  refine ⟨hstep, fun x i hx hd => ?_, fun x mask hx hd => ?_, fun a b hab ha => ?_⟩
  · rw [hstep, hx]
    simp only [serveMove, hd]
  · rw [hstep, hx]
    exact serveMove_refused (s := { s with inbox := rest, now := s.moveTime r }) hd
  · rw [hstep, hab]
    refine ⟨_, rfl, memoryWrite_eq _ a b, ?_, fun k hk => ?_⟩
    · rw [memoryWrite_vramByte, if_pos ⟨rfl, ha⟩]
    · rw [memoryWrite_vramByte, if_neg fun h => hk h.1.symm]
      rfl

/-- Settles O7: the tick is pending and no waiting move goes first (`step_of_pendingTick`). -/
theorem stepFiresTheTimerAtItsDeadline : Obligations.StepFiresTheTimerAtItsDeadline := by
  intro s d hs ht hn hlate
  have hp : s.pendingTick = some d := pendingTick_some.2 ⟨hs, ht⟩
  refine step_of_pendingTick hp hn fun r rest hin => ?_
  rcases hlate with hnil | ⟨q, qs, hq, hm, htime⟩
  · simp [hin] at hnil
  · obtain ⟨rfl, rfl⟩ : q = r ∧ qs = rest := by simpa [hin, eq_comm] using hq
    refine Bool.eq_false_iff.2 fun hg => ?_
    rcases (goesFirst_of_pendingTick hp hm).1 hg with hlt | ⟨heq, hbit⟩
    · omega
    · rcases htime with hlt | ⟨-, hclear⟩
      · omega
      · simp [hbit] at hclear

/-- Settles O8: a move due at the deadline is made at that time, before the tick or after it by its bit alone
(`goesFirst_of_pendingTick`). -/
theorem moveAtTheDeadlineRunsBeforeOrAfterTheTick : Obligations.MoveAtTheDeadlineRunsBeforeOrAfterTheTick := by
  intro s d r rest hs ht hn htime hm hin
  have hp : s.pendingTick = some d := pendingTick_some.2 ⟨hs, ht⟩
  have hmax : max s.now r.time = d := by omega
  have hg : s.goesFirst r d = r.beforeTick := by
    rw [Bool.eq_iff_iff, goesFirst_of_pendingTick hp hm, hmax]
    simp
  refine ⟨fun hbit => ?_, fun hbit => ?_⟩
  · have hserve : ∀ e, s.pendingTick = some e → s.goesFirst r e = true := fun e he => by
      obtain rfl : d = e := Option.some.inj (hp.symm.trans he)
      rw [hg, hbit]
    rw [step_of_goesFirst hin hserve, moveTime_of_pendingTick hp hm, hmax]
  · refine step_of_pendingTick hp hn fun q qs hq => ?_
    obtain ⟨rfl, rfl⟩ : r = q ∧ rest = qs := by simpa [hin] using hq
    rw [hg, hbit]

/-! ### Virtual time (R146) -/

theorem exec_now {i : Instr} {s t : State} (h : exec i s = .next t) : t.now = s.now := (shape_of_exec h).frame.2.1

/-- Serving a move takes no virtual time (R162). -/
theorem serveMove_now {m : Move} {s t : State} (h : serveMove m s = .next t) : t.now = s.now := by
  rcases serveMove_cases h with ⟨x, i, -, -, he⟩ | hq | ⟨-, f, rfl⟩ | ⟨a, b, -, rfl⟩
  · exact exec_now he
  · rw [hq]
  · rfl
  · exact memoryWrite_now s a b

/-- A step ends at the time at which what it does happens. -/
theorem nextTime_of_step {s t : State} (h : step s = .next t) : s.nextTime = some t.now := by
  unfold step at h
  unfold State.nextTime
  cases hturn : s.turn with
  | nothing => simp [hturn] at h
  | fire d =>
    simp only [hturn] at h
    split at h
    · exact congrArg some (exec_now h).symm
    · cases h
  | serve m rest time =>
    simp only [hturn] at h
    exact congrArg some (serveMove_now h).symm

/-- Settles O9: by `step_cases` the new time is a deadline not yet passed, or that of a move, which a step holds at such a
deadline (`moveTime_le`); where no tick can fire, a move goes first and is held there (`moveTime_of_refused`). -/
theorem virtualTimeRespectsTheDeadline : Obligations.VirtualTimeRespectsTheDeadline := by
  refine ⟨fun s t h => ?_, fun s d r rest hs ht hn hd hin => ?_⟩
  · rcases step_cases h with ⟨d, hp, hn, htick⟩ | ⟨r, rest, hin, hg, hmove⟩
    · have hnow : t.now = d := exec_now htick
      refine ⟨hnow ▸ hn, fun e he _ => ?_⟩
      obtain rfl : d = e := Option.some.inj ((pendingTick_some.1 hp).2.symm.trans he)
      exact hnow.le
    · have hnow : t.now = s.moveTime r := serveMove_now hmove
      exact ⟨hnow ▸ now_le_moveTime s r, fun e he hle => hnow ▸ moveTime_le he hle hg⟩
  · have hp : s.pendingTick = none := if_neg (by simp [hs])
    have htime : s.moveTime r = d := by
      rw [moveTime_of_refused r hp, State.heldAt, ht]
      simp only
      omega
    rw [step_of_goesFirst hin (by simp [hp]), htime]

/-! ### The end of a run (R154) -/

/-- While something is still to be applied by the horizon, a run stays within it. -/
theorem run_now_le {T k : Nat} {s t : State} (hrun : Host.Core.run Sys2Proof.core k s = .next t)
    (hbusy : ∀ j < k, ∀ u : State, Host.Core.run Sys2Proof.core j s = .next u → u.appliedThrough T = false)
    (hs : s.now ≤ T) : t.now ≤ T := by
  induction k generalizing s with
  | zero => cases hrun; exact hs
  | succ k ih =>
    obtain ⟨u, hu, hrest⟩ := run_succ.1 hrun
    obtain ⟨time, hle, hnext⟩ := appliedThrough_eq_false.1 (hbusy 0 (by omega) s (run_zero s))
    have hnow : time = u.now := Option.some.inj (hnext.symm.trans (nextTime_of_step hu))
    exact ih hrest (fun j hj v hv => hbusy (j + 1) (by omega) v (run_succ.2 ⟨u, hu, hv⟩)) (hnow ▸ hle)

/-- Settles O57: a teardown cancels the timer and leaves the fault (`exec_teardown_live`); a run stays within its horizon
while it goes on (`run_now_le`), and past its end the next step's time is past it (`nextTime_of_step`). -/
theorem runEndsAtTeardownOrAtTheHorizon : Obligations.RunEndsAtTeardownOrAtTheHorizon := by
  refine ⟨fun s t hl hf h => ?_, fun s h => ?_, fun T s t h => ?_⟩
  · rw [exec_teardown_live hl] at h
    cases h
    simp [State.ended, State.answer, hf]
  · simp only [State.ended, Bool.and_eq_true, Bool.not_eq_true', Option.isNone_iff_eq_none] at h
    obtain ⟨⟨hl, ht⟩, hf⟩ := h
    exact ⟨hf, hl, ht⟩
  · obtain ⟨k, hrun, hdone, hf, hbusy⟩ := h
    refine ⟨hf, run_now_le hrun hbusy, fun u hu => ?_⟩
    simpa only [State.appliedThrough, nextTime_of_step hu, decide_eq_true_eq] using hdone

end Sys2Proof.Machine
end

section
/-! SUPPORT. The invariant `State.Inv`: what it asks of the register file as one condition, and that each shape of a next
state keeps it. -/

namespace Sys2Proof.Machine

/-- The register file in canonical form, the fixed registers at their reset words (R10, R13, R90). -/
def RegsOk (c : Config) (l : List (Nat × Word)) : Prop :=
  Regs.wf c.regMap.numRegs l = true ∧
    ∀ r ∈ fixedRegs, cellsRead 0 l (c.regMap.offset r) = regResetWord c (c.regMap.offset r)

/-- A store at an offset of the file that is none of the fixed registers'. -/
theorem RegsOk.write {c : Config} {l : List (Nat × Word)} (h : RegsOk c l) {o : Nat} (ho : o < c.regMap.numRegs)
    (hfix : ∀ r ∈ fixedRegs, c.regMap.offset r ≠ o) (w : Word) : RegsOk c (cellsWrite 0 l o w) := by
  refine ⟨cellsWrite_wf 0 w h.1 ho, fun r hr => ?_⟩
  rw [cellsRead_write, if_neg (hfix r hr).symm]
  exact h.2 r hr

theorem RegsOk.write_named {c : Config} {l : List (Nat × Word)} (h : RegsOk c l) {r : RegName} (hr : r ∉ fixedRegs)
    (w : Word) : RegsOk c (cellsWrite 0 l (c.regMap.offset r) w) :=
  h.write (c.regMap.offset_lt r) (fun _ hq e => hr (c.regMap.offset_inj.1 e ▸ hq)) w

theorem RegsOk.reset (c : Config) : RegsOk c (resetRegs c.regMap.numRegs c.regReset) :=
  ⟨resetRegs_wf _ _, fun r _ => resetRegs_read _ (c.regMap.offset_lt r)⟩

/-- The invariant, its clauses on the register file taken together. -/
theorem inv_iff {s : State} : s.Inv ↔
    Memory.wf s.vram = true ∧ RegsOk s.config s.regs ∧
    s.currentLine < 2 ^ (s.config.regMap.bits .vcount).width ∧ 0 < s.linePeriodNs ∧
    (s.accepts = true → ∃ d, s.timer = some d) ∧ (∀ d, s.timer = some d → s.now ≤ d) ∧
    (∀ f, s.fbOut = some f → f.wf = true) ∧ s.trace.all Event.wf = true := by
  constructor
  · intro h
    exact ⟨h.vram_wf, ⟨h.regs_wf, fun r hr => h.reg_eq_resetWord hr⟩, h.line_lt, h.period_pos, h.timer_armed,
      h.deadline_ahead, h.fbOut_wf, h.trace_wf⟩
  · rintro ⟨hvram, ⟨hregs, hfix⟩, hline, hperiod, harmed, hahead, hfb, htrace⟩
    exact ⟨hvram, hregs, hfix .id (by decide), hfix .softreset (by decide), hfix .startrender (by decide),
      hfix .taListInit (by decide), hfix .taListCont (by decide), hline, hperiod, harmed, hahead, hfb, htrace⟩

/-- A tick goes to a line that fits the counter (R102). -/
theorem nextLine_lt (s : State) : s.nextLine < 2 ^ (s.config.regMap.bits .vcount).width :=
  (Nat.mod_lt _ (Nat.succ_pos _)).trans_le (get_lt s .vcount)

theorem now_le_of_armed {now p d : Nat} (h : some (now + p) = some d) : now ≤ d :=
  (Nat.le_add_right now p).trans_eq (Option.some.inj h)

theorem not_accepts_of_fault {s : State} {f : BlockFault} (h : s.fault = some f) : s.accepts ≠ true := by
  simp [State.accepts, h]

theorem all_wf_append {l m : List Event} (hl : l.all Event.wf = true) (hm : m.all Event.wf = true) :
    (l ++ m).all Event.wf = true := by
  rw [List.all_append, hl, hm]
  rfl

theorem State.Restarted.inv {s t : State} (h : s.Restarted t) (hvram : Memory.wf s.vram = true) : t.Inv := by
  obtain ⟨p, l, hl, hp, rfl⟩ := h
  exact inv_iff.2 ⟨hvram, .reset s.config, Nat.two_pow_pos _, hp, fun _ => ⟨_, rfl⟩, fun _ => now_le_of_armed, nofun, hl⟩

/-- Every operation that the decoder can give keeps the invariant. -/
theorem Shape.inv {i : Instr} {s t : State} (h : Shape i s t) (hwf : i.wellFormed s.config.regMap = true)
    (hi : s.Inv) : t.Inv := by
  obtain ⟨hvram, hregs, hline, hperiod, harmed, hahead, hfb, htrace⟩ := inv_iff.1 hi
  cases h with
  | quiet h =>
    rw [h]
    exact inv_iff.2 ⟨hvram, hregs, hline, hperiod, harmed, hahead, hfb, htrace⟩
  | refused h =>
    obtain ⟨-, f, rfl⟩ := h
    exact inv_iff.2 ⟨hvram, hregs, hline, hperiod, fun ha => absurd ha (not_accepts_of_fault rfl), hahead, hfb, htrace⟩
  | called h =>
    obtain ⟨-, l, hl, rfl⟩ := h
    exact inv_iff.2 ⟨hvram, hregs, hline, hperiod, harmed, hahead, hfb, all_wf_append htrace hl⟩
  | wrote _ h =>
    obtain ⟨-, m, hm, rfl⟩ := h
    exact inv_iff.2 ⟨hm hvram, hregs, hline, hperiod, harmed, hahead, hfb, htrace⟩
  | marked _ h =>
    obtain ⟨-, m, hm, rfl | ⟨f, rfl⟩⟩ := h
    · exact inv_iff.2 ⟨hm hvram, hregs, hline, hperiod, harmed, hahead, hfb, all_wf_append htrace rfl⟩
    · exact inv_iff.2 ⟨hm hvram, hregs, hline, hperiod, fun ha => absurd ha (not_accepts_of_fault rfl), hahead, hfb,
        all_wf_append htrace rfl⟩
  | stored o ho h =>
    obtain ⟨-, hlt, w, l, hl, rfl⟩ := h
    exact inv_iff.2 ⟨hvram, hregs.write hlt (ho hwf) w, hline, hperiod, harmed, hahead, hfb, all_wf_append htrace hl⟩
  | retimed r hr h =>
    obtain ⟨-, w, p, l, hl, hp, rfl⟩ := h
    exact inv_iff.2 ⟨hvram, hregs.write_named hr w, hline, hp, fun _ => ⟨_, rfl⟩, fun _ => now_le_of_armed, hfb,
      all_wf_append htrace hl⟩
  | ticked _ h =>
    obtain ⟨-, -, f, v, g, c, o, l, hl, -, ho, rfl⟩ := h
    refine inv_iff.2 ⟨hvram, hregs.write_named (by decide) _, nextLine_lt s, hperiod, fun _ => ⟨_, rfl⟩,
      fun _ => now_le_of_armed, fun fr hfr => ?_, all_wf_append htrace hl⟩
    exact (ho fr hfr).elim (fun he => hfb fr (he ▸ hfr)) id
  | tickStopped _ h =>
    obtain ⟨-, -, v, c, f, l, hl, rfl⟩ := h
    exact inv_iff.2 ⟨hvram, hregs, nextLine_lt s, hperiod, fun ha => absurd ha (not_accepts_of_fault rfl), nofun, hfb,
      all_wf_append htrace hl⟩
  | restarted _ h => exact h.inv hvram
  | tornDown _ h =>
    obtain ⟨-, l, hl, rfl⟩ := h
    exact inv_iff.2 ⟨hvram, hregs, hline, hperiod, fun ha => absurd ((accepts_iff _).1 ha).2 (by simp), nofun, hfb,
      all_wf_append htrace hl⟩

/-- Virtual time moved on, not past an armed deadline, and a move taken (R146). -/
theorem State.Inv.later {s : State} (hi : s.Inv) (rest : List Request) {time : Nat}
    (ht : ∀ d, s.timer = some d → time ≤ d) : ((s.take rest).atTime time).Inv := by
  obtain ⟨hvram, hregs, hline, hperiod, harmed, -, hfb, htrace⟩ := inv_iff.1 hi
  exact inv_iff.2 ⟨hvram, hregs, hline, hperiod, harmed, ht, hfb, htrace⟩

theorem State.Inv.memoryWrite {s : State} (hi : s.Inv) (a : Nat) (b : Byte) : (s.memoryWrite a b).Inv := by
  obtain ⟨hvram, hregs, hline, hperiod, harmed, hahead, hfb, htrace⟩ := inv_iff.1 hi
  rw [memoryWrite_eq]
  exact inv_iff.2 ⟨memoryWrite_wf a b hvram, hregs, hline, hperiod, harmed, hahead, hfb, htrace⟩

theorem serveMove_inv {m : Move} {s t : State} (h : serveMove m s = .next t) (hi : s.Inv) : t.Inv := by
  rcases serveMove_cases h with ⟨x, i, -, hd, he⟩ | hq | hr | ⟨a, b, -, rfl⟩
  · exact (shape_of_exec he).inv (wellFormed_of_decode hd) hi
  · exact (Shape.quiet hq : Shape .tick s t).inv rfl hi
  · exact (Shape.refused hr : Shape .tick s t).inv rfl hi
  · exact hi.memoryWrite a b

/-- Settles O60: a step moves time on within the deadline (`State.Inv.later`), then ticks or serves a move, whose
operation is well-formed since it was decoded (`Shape.inv`, `serveMove_inv`). -/
theorem stepKeepsTheInvariant : Obligations.StepKeepsTheInvariant := by
  intro s t hi h
  rcases step_cases h with ⟨d, hp, -, htick⟩ | ⟨r, rest, -, hg, hmove⟩
  · have hd : ∀ e, s.timer = some e → d ≤ e := fun e he =>
      (Option.some.inj ((pendingTick_some.1 hp).2.symm.trans he)).le
    exact (shape_of_exec htick).inv rfl (hi.later s.inbox hd)
  · exact serveMove_inv hmove (hi.later rest fun d ht => moveTime_le ht (hi.deadline_ahead d ht) hg)

/-- Settles O59: `RESET` writes every clause but the one on VRAM (`State.Restarted.inv`). -/
theorem resetEstablishesTheInvariant : Obligations.ResetEstablishesTheInvariant := by
  intro s t hvram h
  have hr : s.Restarted t := effect_of_exec h
  exact hr.inv hvram

/-- Settles O58: each clause on the fixed reset state is a computation. -/
theorem resetStateMeetsTheInvariant : Obligations.ResetStateMeetsTheInvariant :=
  inv_iff.2 ⟨reset_vram_wf, ⟨by decide, by decide⟩, by decide, by decide, fun _ => ⟨_, rfl⟩,
    fun _ => now_le_of_armed (now := 0) (p := 63556), nofun, rfl⟩

end Sys2Proof.Machine
end

section
/-! SUPPORT. The address translator by its bits and by its arithmetic, and guest accesses that are refused or that go to one
byte through either view (20_memory.md, 41_vram_access.md). -/

namespace Sys2Proof.Machine

/-! ### The translator (R54 to R56) -/

/-- The mask formula: bits 21:2 one place up, bit 22 down at bit 2, bits 1:0 in place. -/
theorem map32_eq_masks (a : Word) :
    map32 a = ((a &&& 0x003FFFFC) <<< 1) ||| ((a &&& 0x00400000) >>> 20) ||| (a &&& 0x00000003) := by
  have hword : ∀ i < 32, (0x003FFFFC : Word).getLsbD (i - 1) = decide (3 ≤ i ∧ i < 23) := by decide
  have hbank : ∀ i < 32, (0x00400000 : Word).getLsbD (20 + i) = decide (i = 2) := by decide
  have hbyte : ∀ i < 32, (0x00000003 : Word).getLsbD i = decide (i < 2) := by decide
  apply BitVec.eq_of_getLsbD_eq
  intro i hi
  simp only [map32, BitVec.getLsbD_setWidth, BitVec.getLsbD_append, BitVec.getLsbD_extractLsb', BitVec.getLsbD_or,
    BitVec.getLsbD_and, BitVec.getLsbD_shiftLeft, BitVec.getLsbD_ushiftRight, hword i hi, hbank i hi, hbyte i hi]
  match i with
  | 0 | 1 | 2 => simp
  | j + 3 =>
    have hsrc : j + 3 - 1 = 2 + j := by omega
    have hlt : j + 3 < 23 ↔ j < 20 := by omega
    simp [hi, hsrc, hlt, Bool.and_comm]

/-- The inverse's: bits 22:3 one place down, bit 2 up at bit 22, bits 1:0 in place. -/
theorem unmap32_eq_masks (a : Word) :
    unmap32 a = ((a &&& 0x007FFFF8) >>> 1) ||| ((a &&& 0x00000004) <<< 20) ||| (a &&& 0x00000003) := by
  have hword : ∀ i < 32, (0x007FFFF8 : Word).getLsbD (1 + i) = decide (2 ≤ i ∧ i < 22) := by decide
  have hbank : ∀ i < 32, (0x00000004 : Word).getLsbD (i - 20) = decide (i = 22) := by decide
  have hbyte : ∀ i < 32, (0x00000003 : Word).getLsbD i = decide (i < 2) := by decide
  apply BitVec.eq_of_getLsbD_eq
  intro i hi
  simp only [unmap32, BitVec.getLsbD_setWidth, BitVec.getLsbD_append, BitVec.getLsbD_extractLsb', BitVec.getLsbD_or,
    BitVec.getLsbD_and, BitVec.getLsbD_shiftLeft, BitVec.getLsbD_ushiftRight, hword i hi, hbank i hi, hbyte i hi]
  match i with
  | 0 | 1 => simp
  | j + 2 =>
    have hsrc : 1 + (j + 2) = 3 + j := by omega
    have hlt : j + 2 < 22 ↔ j < 20 := by omega
    rcases Nat.lt_trichotomy j 20 with h | rfl | h
    · simp [hi, hsrc, hlt, h, h.ne]
    · simp
    · have hbit : j - 20 ≠ 0 := by omega
      simp [hi, hlt, h.ne', h.not_gt, hbit]

theorem map32_lt (a : Word) : (map32 a).toNat < 0x800000 := by
  rw [map32_toNat]
  omega

theorem unmap32_lt (a : Word) : (unmap32 a).toNat < 0x800000 := by
  rw [unmap32_toNat]
  omega

section InRange

variable {a : Word} (ha : a.toNat < 0x800000)
include ha

theorem unmap32_map32 : unmap32 (map32 a) = a := by
  apply BitVec.eq_of_toNat_eq
  rw [unmap32_toNat, map32_toNat]
  simp only [Nat.reducePow]
  have hsplit : a.toNat = a.toNat / 4194304 % 2 * 4194304 + a.toNat / 4 % 1048576 * 4 + a.toNat % 4 := by omega
  have hword := Nat.mod_lt (a.toNat / 4) (show 0 < 1048576 by decide)
  have hbank := Nat.mod_lt (a.toNat / 4194304) (show 0 < 2 by decide)
  have hbyte := Nat.mod_lt a.toNat (show 0 < 4 by decide)
  generalize a.toNat / 4 % 1048576 = word, a.toNat / 4194304 % 2 = bank, a.toNat % 4 = byte at *
  have h4 : (word * 8 + bank * 4 + byte) / 4 % 2 = bank := by omega
  have h8 : (word * 8 + bank * 4 + byte) / 8 = word := by omega
  have h1 : (word * 8 + bank * 4 + byte) % 4 = byte := by omega
  rw [h4, h8, h1, Nat.mod_eq_of_lt hword, hsplit]

theorem map32_unmap32 : map32 (unmap32 a) = a := by
  apply BitVec.eq_of_toNat_eq
  rw [map32_toNat, unmap32_toNat]
  simp only [Nat.reducePow]
  have hsplit : a.toNat = a.toNat / 8 % 1048576 * 8 + a.toNat / 4 % 2 * 4 + a.toNat % 4 := by omega
  have hword := Nat.mod_lt (a.toNat / 8) (show 0 < 1048576 by decide)
  have hbank := Nat.mod_lt (a.toNat / 4) (show 0 < 2 by decide)
  have hbyte := Nat.mod_lt a.toNat (show 0 < 4 by decide)
  generalize a.toNat / 8 % 1048576 = word, a.toNat / 4 % 2 = bank, a.toNat % 4 = byte at *
  have h4 : (bank * 4194304 + word * 4 + byte) / 4 % 1048576 = word := by omega
  have h22 : (bank * 4194304 + word * 4 + byte) / 4194304 = bank := by omega
  have h1 : (bank * 4194304 + word * 4 + byte) % 4 = byte := by omega
  rw [h4, h22, h1, Nat.mod_eq_of_lt hbank, hsplit]

theorem wrapAddr_of_lt : wrapAddr a = a := by
  apply BitVec.eq_of_toNat_eq
  rw [wrapAddr_toNat]
  exact Nat.mod_eq_of_lt ha

end InRange

/-- Settles O26: the formulas bit by bit (`map32_eq_masks`, `unmap32_eq_masks`), the rest by the translators' arithmetic. -/
theorem translatorIsItsFormulaAndABijection : Obligations.TranslatorIsItsFormulaAndABijection := fun a ha =>
  ⟨map32_eq_masks a, unmap32_eq_masks a, map32_lt a, unmap32_lt a, unmap32_map32 ha, map32_unmap32 ha⟩

/-- R55: the banks' words alternate in the buffer. -/
theorem map32_bank {k j : Nat} (hk : k < 2 ^ 20) (hj : j < 4) :
    map32 (BitVec.ofNat 32 (4 * k + j)) = BitVec.ofNat 32 (8 * k + j) ∧
      map32 (BitVec.ofNat 32 (0x400000 + 4 * k + j)) = BitVec.ofNat 32 (8 * k + 4 + j) := by
  constructor <;>
  · apply BitVec.eq_of_toNat_eq
    rw [map32_toNat, BitVec.toNat_ofNat, BitVec.toNat_ofNat]
    omega

/-- Settles O27: `map32_bank`; the views' index is by definition that of the wrapped address, which in range is the address
(`wrapAddr_of_lt`). -/
theorem bankWordsInterleaveEveryFourBytes : Obligations.BankWordsInterleaveEveryFourBytes :=
  ⟨fun _ _ hk hj => map32_bank hk hj,
    fun _ ha => ⟨congrArg BitVec.toNat (wrapAddr_of_lt ha), congrArg (BitVec.toNat ∘ map32) (wrapAddr_of_lt ha)⟩,
    fun a => ⟨vramIndex_v64 a, rfl⟩, addrAllowed_iff⟩

/-! ### Refused accesses (R57, R62, R134) -/

/-- Each of the sixteen rows is at least a byte wide, and records what is wrong with its access before any byte moves. -/
theorem exec_row_refused {s : State} {addr : Word} {data : DWord} {p : View × Nat × Instr}
    (hp : p ∈ readRows addr ++ writeRows addr data) (hs : s.accepts = true) :
    0 < p.2.1 ∧ ∀ f, guestFault s.config p.2.1 addr = some f →
      exec p.2.2 s = .next (({ s with fault := some f } : State).answer .faulted) := by
  rcases List.mem_append.1 hp with hr | hw
  · refine ⟨?_, fun f hf => ((exec_readRow hr).2 s).trans (runIf_of_raise hs (by simp only [guestRead, hf]))⟩
    simp only [readRows, List.mem_cons, List.not_mem_nil, or_false] at hr
    rcases hr with rfl | rfl | rfl | rfl | rfl | rfl | rfl | rfl <;> simp
  · refine ⟨?_, fun f hf => ((exec_writeRow hw).2 s).trans (runIf_of_raise hs (by simp only [guestWrite, hf]))⟩
    simp only [writeRows, List.mem_cons, List.not_mem_nil, or_false] at hw
    rcases hw with rfl | rfl | rfl | rfl | rfl | rfl | rfl | rfl <;> simp

/-- Settles O30: the checks in their order name the fault, which every row records (`exec_row_refused`). -/
theorem guestAccessFaultsBeforeAnyByteMoves : Obligations.GuestAccessFaultsBeforeAnyByteMoves := by
  intro s addr data p hp hs
  obtain ⟨hwidth, hexec⟩ := exec_row_refused hp hs
  refine ⟨fun hmis => ⟨_, hexec _ (if_pos hmis), rfl⟩, fun halign hrange hpol => ⟨_, hexec _ ?_, rfl⟩⟩
  have hover : vramSize < addr.toNat + p.2.1 := by
    unfold vramSize
    omega
  rw [guestFault, if_neg (not_not.2 halign), if_pos ⟨hover, hpol⟩]

/-! ### One byte through two views (R68, R96) -/

/-- An access of one byte below `VRAM_SIZE` has nothing wrong with it. -/
theorem guestFault_byte (c : Config) {a : Word} (ha : a.toNat < 0x800000) : guestFault c 1 a = none :=
  guestFault_none (Nat.mod_one _) (Or.inl ha)

/-- A linear address and its translation name the same byte of the buffer (R52). -/
theorem vramIndex_translated {a : Word} (ha : a.toNat < 0x800000) :
    vramIndex .v32 a = vramIndex .v64 (map32 a) := by
  simp only [vramIndex, wrapAddr_of_lt ha, wrapAddr_of_lt (map32_lt a)]

theorem guestRead_byte (s : State) (v : View) {a : Word} (ha : a.toNat < 0x800000) :
    guestRead v 1 a s = .on (s.answer (.value 1 ((s.vramByte (vramIndex v a)).setWidth 64))) := by
  simp [guestRead, guestFault_byte s.config ha, State.readBytes, leValue, BitVec.ofNat_toNat]

/-- A byte written through one view is what a read of the same byte through any view then answers. -/
theorem guestRead_after_guestWrite {s t : State} {v v' : View} {a a' : Word} (hs : s.accepts = true)
    (ha : a.toNat < 0x800000) (ha' : a'.toNat < 0x800000) (hsame : vramIndex v' a' = vramIndex v a) (b : Byte)
    (h : runIf s.accepts (guestWrite v 1 a b.toNat) s = .next t) :
    runIf t.accepts (guestRead v' 1 a') t = .next { t with reply := .value 1 (b.setWidth 64) } := by
  rw [guestWrite_accepted hs (guestFault_byte s.config ha)] at h
  cases h
  have hwritten : leBytes 1 b.toNat = [b] := by simp [leBytes]
  have hacc : ((State.writeBytes v (leBytes 1 b.toNat) a s).answer .done).accepts = true := by
    rw [writeBytes_eq]
    exact hs
  refine (runIf_of_on hacc (guestRead_byte _ v' ha')).trans ?_
  rw [hsame, hwritten]
  simp only [answer_vramByte, State.writeBytes, setVramByte_vramByte, if_true]
  rfl

/-- Settles O31: the two addresses name one byte (`vramIndex_translated`), so both reads answer it (`guestRead_byte`), and
each read answers what the other view wrote (`guestRead_after_guestWrite`). -/
theorem theTwoViewsAgree : Obligations.TheTwoViewsAgree := by
  intro s a ha
  have hm := map32_lt a
  have hsame := vramIndex_translated ha
  refine ⟨?_, fun b t hs => ⟨?_, ?_⟩⟩
  · have hread : guestRead .v32 1 a s = guestRead .v64 1 (map32 a) s := by
      rw [guestRead_byte s .v32 ha, guestRead_byte s .v64 hm, hsame]
    change runIf s.accepts (guestRead .v32 1 a) s = runIf s.accepts (guestRead .v64 1 (map32 a)) s
    rw [runIf_eq, runIf_eq, hread]
  · exact guestRead_after_guestWrite hs ha hm hsame.symm b
  · exact guestRead_after_guestWrite hs hm ha hsame b

end Sys2Proof.Machine
end

section
/-! SUPPORT. Marking and the dirty test (43_framebuffer.md): where a start-render write ends, what a marked word reads as,
and what the test compares (R84, R114 to R116). -/

namespace Sys2Proof.Machine

/-! ### A word of the linear view (R58, R59) -/

/-- Where its four bytes may be accessed, a word reads as the one whose bytes they hold. -/
theorem linRead32_eq_ok_iff {s : State} {a : Word} (h : ∀ i < 4, addrAllowed s.config (a + BitVec.ofNat 32 i) = true)
    (w : Word) :
    s.linRead32 a = .ok w ↔ ∀ i < 4, s.vramByte (vramIndex .v32 (a + BitVec.ofNat 32 i)) = w.extractLsb' (8 * i) 8 := by
  have hread : s.linRead32 a = .ok (BitVec.ofNat 32 (leValue (s.readBytes .v32 4 a))) := by
    simp only [State.linRead32, linRead_of_allowed (firstRefused_none.2 h)]
  rw [hread]
  constructor
  · intro he i hi
    rw [← Except.ok.inj he]
    apply BitVec.eq_of_toNat_eq
    have hlt : leValue (s.readBytes .v32 4 a) < 2 ^ 32 := by simpa using leValue_lt (s.readBytes .v32 4 a)
    rw [BitVec.extractLsb'_toNat, BitVec.toNat_ofNat, Nat.mod_eq_of_lt hlt, Nat.shiftRight_eq_div_pow, pow_mul,
      show (2 : Nat) ^ 8 = 256 from rfl, leValue_byte _ i (by simpa using hi), readBytes_getElem]
  · intro hb
    have hbytes : s.readBytes .v32 4 a = leBytes 4 w.toNat := by
      apply List.ext_getElem (by simp)
      intro i h1 h2
      rw [readBytes_getElem, leBytes_word]
      exact hb i (by simpa using h2)
    rw [hbytes, leValue_leBytes, Nat.mod_eq_of_lt (show w.toNat < 256 ^ 4 from w.isLt), BitVec.ofNat_toNat, BitVec.setWidth_eq]

/-! ### The dirty test (R116) -/

theorem dirty_of_sentinel {s : State} (h : s.linRead32 (s.word .fbRSof1) = .ok s.config.fbCookie) :
    s.dirty = .ok false := by
  simp only [State.dirty, h, bne_self_eq_false]

section Dirty

variable {s : State}
  (h : ∀ i < 4, addrAllowed s.config (s.word .fbRSof1 + BitVec.ofNat 32 i) = true)
include h

theorem dirty_eq_clean_iff : s.dirty = .ok false ↔ ∀ i < 4,
    s.vramByte (vramIndex .v32 (s.word .fbRSof1 + BitVec.ofNat 32 i)) = s.config.fbCookie.extractLsb' (8 * i) 8 := by
  rw [← linRead32_eq_ok_iff h]
  simp only [State.dirty, State.linRead32, linRead_of_allowed (firstRefused_none.2 h), Except.ok.injEq, bne_eq_false_iff_eq]

theorem dirty_eq_not_clean : s.dirty = .ok true ↔ s.dirty ≠ .ok false := by
  simp only [State.dirty, State.linRead32, linRead_of_allowed (firstRefused_none.2 h), ne_eq, Except.ok.injEq,
    Bool.not_eq_false]

end Dirty

/-- Settles O47: the test says clean by the word's bytes (`dirty_eq_clean_iff`) and else dirty, so a byte changed to any
other value makes it dirty; a byte that may not be accessed stops it (`dirty_refused`). -/
theorem dirtyTestComparesTheWordAtTheReadSource : Obligations.DirtyTestComparesTheWordAtTheReadSource := by
  intro s byteAddr
  refine ⟨fun h => ⟨dirty_eq_clean_iff h, ?_, fun _ i hi b hb => ?_⟩, fun i hi hx hj => dirty_refused hi hx hj⟩
  · rw [dirty_eq_not_clean h, ne_eq, dirty_eq_clean_iff h]
    push Not
    rfl
  · rw [dirty_eq_not_clean (s := s.setVramByte (vramIndex .v32 (byteAddr i)) b) h, ne_eq,
      dirty_eq_clean_iff (s := s.setVramByte (vramIndex .v32 (byteAddr i)) b) h]
    intro hclean
    have hat := hclean i hi
    rw [setVramByte_vramByte, setVramByte_word, if_pos rfl] at hat
    exact hb hat

/-! ### A start-render write (R84) -/

/-- The addresses a start-render write marks (R115). -/
def State.targets (s : State) : List Word :=
  markTargets s.config (s.word .fbWSof1) ++ markTargets s.config (s.word .fbWSof2)

/-- A start-render write that triggers calls the pipeline, marks, and sets the flag if no fault stops the marking. -/
theorem exec_startrender {s : State} (hs : s.accepts = true) (addr : Word) {data : Word} (hd : data ≠ 0) (mask : Word) :
    exec (.wrRegStartrender addr data mask) s = .next (((s.emit .pipelineStartRender).markWords s.targets).andThen
      fun u => .on (State.answer { u with gotStartrender := true } .done)).close := by
  change execWrRegStartrender addr data mask s = _
  rw [execWrRegStartrender, hs, runIf_true, if_neg hd]
  rfl

theorem exec_startrender_zero {s : State} (hs : s.accepts = true) (addr mask : Word) :
    exec (.wrRegStartrender addr 0 mask) s = .next (s.answer .done) := by
  change execWrRegStartrender addr 0 mask s = _
  rw [execWrRegStartrender, hs, runIf_true, if_pos rfl, close_on]

/-- Settles O22: a write of zero only answers; any other marks every word (`exec_startrender`, `markWords_on`). -/
theorem startRenderMarksThenSetsTheFlag : Obligations.StartRenderMarksThenSetsTheFlag := by
  refine ⟨fun s addr mask hs => ⟨_, exec_startrender_zero hs addr mask, rfl⟩, ?_⟩
  intro s addr data mask hs hd targets hall
  obtain ⟨m, hm, hbytes⟩ := markWords_on (s := s.emit .pipelineStartRender) (l := s.targets) hall
  refine ⟨_, exec_startrender hs addr hd mask, ?_, ?_⟩
  · rw [hm]
    rfl
  · rw [hm]
    exact hbytes

/-- Marking stops at a word with a byte that may not be accessed, with that byte's address (log 20). -/
theorem markWords_refused {s : State} {a x : Word} (h : firstRefused s.config 4 a = some x) (rest : List Word) :
    s.markWords (a :: rest) = .halted { s with fault := some (.vramRange x) } := by
  simp only [State.markWords, State.linWrite32, h, raise_eq]

/-- Settles O24: the words before the refused one are marked (`markWords_append`, `markWords_on`), and its own write is
refused at the first of its bytes that may not be accessed (`markWords_refused`, `firstRefused_at`). -/
theorem outOfRangeMarkStopsStartRender : Obligations.OutOfRangeMarkStopsStartRender := by
  intro s addr data mask x a before after hs hd htargets hbefore hx
  obtain ⟨i, hi, rfl, hbad, hgood⟩ := hx
  obtain ⟨m, hm, hbytes⟩ := markWords_on (s := s.emit .pipelineStartRender) (l := before) hbefore
  have hstop : (s.emit .pipelineStartRender).markWords s.targets = .halted
      { s.emit .pipelineStartRender with vram := m, fault := some (.vramRange (a + BitVec.ofNat 32 i)) } := by
    rw [State.targets, htargets, markWords_append, hm, andThen_on]
    exact markWords_refused (s := { s.emit .pipelineStartRender with vram := m }) (firstRefused_at hi hbad hgood) after
  refine ⟨_, exec_startrender hs addr hd mask, ?_, ?_⟩
  · rw [hstop]
    rfl
  · rw [hstop]
    exact hbytes

/-- Marking that runs to its end has written every word, so each may be accessed. -/
theorem allowed_of_markWords_on {l : List Word} {s t : State} (h : s.markWords l = .on t) :
    ∀ a ∈ l, ∀ i < 4, addrAllowed s.config (a + BitVec.ofNat 32 i) = true := by
  induction l generalizing s with
  | nil => simp
  | cons a rest ih =>
    rw [State.markWords] at h
    rcases linWrite32_cases s a s.config.fbCookie with ⟨hok, hw⟩ | ⟨x, -, hw⟩ <;> rw [hw] at h
    · rintro b hb
      rcases List.mem_cons.1 hb with rfl | hb
      · exact firstRefused_none.1 hok
      · exact ih h b hb
    · cases h

/-- The byte of a multiple of four plus `i` stands at place `i` of its word in the buffer. -/
theorem vramIndex_mod_four {a : Word} (ha : a.toNat % 4 = 0) {i : Nat} (hi : i < 4) :
    vramIndex .v32 (a + BitVec.ofNat 32 i) % 4 = i := by
  rw [vramIndex_v32, BitVec.toNat_add, BitVec.toNat_ofNat]
  omega

/-- Words at multiples of four do not overlap in part, so marking them leaves each the whole sentinel. -/
theorem markWords_aligned {l : List Word} {s t : State} (h : s.markWords l = .on t) (ha : ∀ a ∈ l, a.toNat % 4 = 0) :
    ∀ a ∈ l, t.linRead32 a = .ok s.config.fbCookie := by
  have hall := allowed_of_markWords_on h
  obtain ⟨m, hm, hbytes⟩ := markWords_on hall
  obtain rfl : t = { s with vram := m } := Flow.on.inj (h.symm.trans hm)
  intro a hal
  refine (linRead32_eq_ok_iff (s := { s with vram := m }) (hall a hal) _).2 fun i hi => ?_
  obtain ⟨b, hb, j, hj, hsame, hv⟩ := (hbytes (vramIndex .v32 (a + BitVec.ofNat 32 i))).2 ⟨a, hal, i, hi, rfl⟩
  obtain rfl : j = i := by
    rw [← vramIndex_mod_four (ha b hb) hj, hsame, vramIndex_mod_four (ha a hal) hi]
  exact hv

/-- Settles O23: without a fault the marking ran to its end, so each word reads as the sentinel (`markWords_aligned`), that
at `FB_R_SOF1` included. -/
theorem alignedMarksReadAsTheSentinel : Obligations.AlignedMarksReadAsTheSentinel := by
  intro s t addr data mask hs hd targets halign h hf
  rw [exec_startrender hs addr hd mask] at h
  rcases markWords_cases s.targets (s.emit .pipelineStartRender) with ⟨m, hm, -⟩ | ⟨m, x, hm, -⟩
  · have hread := markWords_aligned hm halign
    rw [hm] at h
    cases h
    exact ⟨hread, fun hmem => dirty_of_sentinel (hread _ hmem)⟩
  · rw [hm] at h
    cases h
    cases hf

/-! ### The default candidates (R114, log 9, log 12) -/

/-- Settles O25: a base is in the default texture region by bit 24 alone, and the default lists give the twelve offsets. -/
theorem defaultMarkTargetsAreTheTwelveCandidates : Obligations.DefaultMarkTargetsAreTheTwelveCandidates := by
  intro base
  have hregion : isTextureAddr defaultConfig base = base.getLsbD 24 := by
    have hbit : (0x01000000 : Word) = BitVec.twoPow 32 24 := rfl
    simp only [isTextureAddr, defaultConfig, List.any_cons, List.any_nil, Bool.or_false, hbit, BitVec.and_twoPow]
    cases base.getLsbD 24
    · rfl
    · simp
  refine ⟨fun h => ?_, fun h => ?_⟩
  · rw [markTargets, hregion, h]
    rfl
  · rw [markTargets, hregion, h]
    rfl

end Sys2Proof.Machine
end

section
/-! SUPPORT. A due tick by its edge of the vsync flag (42_spg.md): the state its vblank-in event ends in, or the fault that
stops it (R107, R108, R110, R117). -/

namespace Sys2Proof.Machine

/-- Settles O32: a tick away from its deadline is not accepted. -/
theorem tickHappensOnlyAtItsDeadline : Obligations.TickHappensOnlyAtItsDeadline :=
  fun _ ht => if_neg (by simp [ht])

/-! ### The vblank-in event (R108, R117) -/

theorem nextField_eq (s : State) (b : Bool) :
    nextField (s.flag .interlace) b = if s.get .interlace = 1 then !b else false := by
  by_cases h : s.get .interlace = 1 <;> simp [nextField, State.flag, h]

theorem dirty_countVblank (s : State) : s.countVblank.dirty = s.dirty := dirty_congr rfl rfl rfl

theorem readFrame_countVblank (s : State) : s.countVblank.readFrame = s.readFrame := readFrame_congr rfl rfl rfl

section VblankIn

variable {s : State}

/-- After a start-render, or with a clean region, or with reading disabled, the event counts, clears the flag, sets the
field and notifies. -/
theorem vblankInEvent_without_extraction
    (h : s.gotStartrender = true ∨ s.dirty = .ok false ∨ (s.dirty = .ok true ∧ s.get .fbEnable = 0)) :
    s.vblankInEvent = .on { s with
      gotStartrender := false, vblankCount := s.vblankCount + 1
      field := if s.get .interlace = 1 then !s.field else false
      trace := s.trace ++ [.counterAdd s.config.vblankCounter 1, .vblankIn (s.get .blankVideo == 1)] } := by
  rw [← nextField_eq s s.field]
  rcases vblankInEvent_cases s with ⟨-, hev⟩ | ⟨hg, hev⟩
  · rw [hev, List.append_cons]
    rfl
  · have hskip : s.countVblank.detectAndExtract = .on s.countVblank := by
      unfold State.detectAndExtract
      rw [dirty_countVblank]
      rcases h with h | h | ⟨h, he⟩
      · simp [hg] at h
      · rw [h]
      · rw [h]
        exact if_pos he
    rw [hev, hskip, ← hg, List.append_cons]
    rfl

variable (hg : s.gotStartrender = false)
include hg

/-- With a dirty region and reading enabled it keeps the frame and pushes it between the counter and the notification. -/
theorem vblankInEvent_pushing (hd : s.dirty = .ok true) (he : s.get .fbEnable ≠ 0) {fr : Frame}
    (hr : s.readFrame = .ok fr) :
    s.vblankInEvent = .on { s with
      vblankCount := s.vblankCount + 1, field := if s.get .interlace = 1 then !s.field else false, fbOut := some fr
      trace := s.trace ++
        [.counterAdd s.config.vblankCounter 1, .pushFrame fr, .vblankIn (s.get .blankVideo == 1)] } := by
  have hpush : s.countVblank.detectAndExtract = .on (s.countVblank.pushFrame fr) := by
    unfold State.detectAndExtract State.extract
    rw [dirty_countVblank, readFrame_countVblank, hd, hr]
    exact if_neg he
  rcases vblankInEvent_cases s with ⟨hg', -⟩ | ⟨-, hev⟩
  · simp [hg] at hg'
  · rw [← nextField_eq s s.field, hev, hpush, List.append_cons, List.append_cons _ (Event.pushFrame fr)]
    rfl

/-- A fault of the dirty test, or of the extraction that a dirty region brings, stops it once the counter has counted. -/
theorem vblankInEvent_faulting {f : BlockFault}
    (h : s.dirty = .error f ∨ (s.dirty = .ok true ∧ s.get .fbEnable ≠ 0 ∧ s.readFrame = .error f)) :
    s.vblankInEvent = .halted { s with
      vblankCount := s.vblankCount + 1, trace := s.trace ++ [.counterAdd s.config.vblankCounter 1]
      fault := some f } := by
  have hstop : s.countVblank.detectAndExtract = s.countVblank.raise f := by
    unfold State.detectAndExtract State.extract
    rw [dirty_countVblank, readFrame_countVblank]
    rcases h with h | ⟨h, he, hr⟩
    · rw [h]
    · rw [h, hr]
      exact if_neg he
  rcases vblankInEvent_cases s with ⟨hg', -⟩ | ⟨-, hev⟩
  · simp [hg] at hg'
  · rw [hev, hstop]
    rfl

end VblankIn

/-! ### The edges of a due tick (R107) -/

theorem mode_of_mem {s : State} (h : s.get .hblankIntMode ∈ ([0, 2] : List Nat)) :
    s.get .hblankIntMode = 0 ∨ s.get .hblankIntMode = 2 := by simpa using h

/-- Where the flag of the new line is the old one there is no edge. -/
theorem stepEdges_atLine_same {s : State} (h : s.vsync = true ↔ s.vsyncAt s.nextLine) :
    s.atLine.stepEdges s.vsync = .on s.atLine ∧ s.atLine.vsync = s.vsync := by
  have hv : s.atLine.vsync = s.vsync := Bool.eq_iff_iff.2 ((vsyncOf_iff s s.nextLine).trans h.symm)
  refine ⟨?_, hv⟩
  rcases stepEdges_cases s.vsync s.atLine with ⟨h0, h1, -⟩ | ⟨h0, h1, -⟩ | ⟨-, he⟩
  · simp [h0, h1] at hv
  · simp [h0, h1] at hv
  · exact he

/-- Where it is set and the old one is not, the edge is the vblank-in event. -/
theorem stepEdges_atLine_rising {s : State} (h0 : s.vsync = false) (h1 : s.vsyncAt s.nextLine) :
    s.atLine.stepEdges s.vsync = s.atLine.vblankInEvent ∧ s.atLine.vsync = true := by
  have hv : s.atLine.vsync = true := (vsyncOf_iff s s.nextLine).2 h1
  refine ⟨?_, hv⟩
  rcases stepEdges_cases s.vsync s.atLine with ⟨-, -, he⟩ | ⟨h, -, -⟩ | ⟨h, -⟩
  · exact he
  · simp [h0] at h
  · simp [h0, hv] at h

theorem dirty_atLine (s : State) : s.atLine.dirty = s.dirty := dirty_congr rfl rfl rfl

theorem readFrame_atLine (s : State) : s.atLine.readFrame = s.readFrame := readFrame_congr rfl rfl rfl

/-- Where the edges of a due tick end, the mirror is written and the next timer armed (R110, R111). -/
theorem exec_tick_frame_of_edges {s u : State} (hs : s.accepts = true) (ht : s.timer = some s.now)
    (hmode : s.get .hblankIntMode ∈ ([0, 2] : List Nat)) (he : s.atLine.stepEdges s.vsync = .on u)
    (hc : u.config = s.config) (hr : u.regs = s.regs) :
    ∃ t, exec .tick s = .next t ∧
      t = { u with
        regs := t.regs, timer := some (u.now + u.linePeriodNs)
        trace := u.trace ++ [.timerArm (u.now + u.linePeriodNs)], reply := t.reply } ∧
      ∀ o, t.reg o = if o = s.off .spgStatus then s.mirror t (s.reg o) else s.reg o :=
  ⟨_, exec_tick_on_of_edges hs ht (mode_of_mem hmode) he, rfl, stepMirror_reg_of_same hc hr⟩

/-! ### The obligations -/

/-- Settles O34: no edge (`stepEdges_atLine_same`), so the tick goes from its line to the mirror. -/
theorem tickWithoutEdge : Obligations.TickWithoutEdge := by
  intro s hs ht hmode hsame
  obtain ⟨he, hv⟩ := stepEdges_atLine_same hsame
  obtain ⟨t, hx, hrec, hreg⟩ := exec_tick_frame_of_edges hs ht hmode he rfl rfl
  refine ⟨t, hx, hrec.trans ?_, hreg⟩
  rw [hv]
  rfl

/-- Settles O36: the edge is the vblank-in event without extraction (`vblankInEvent_without_extraction`). -/
theorem tickOnTheRisingEdgeWithoutExtraction : Obligations.TickOnTheRisingEdgeWithoutExtraction := by
  intro s hs ht hmode h0 h1 hskip
  obtain ⟨he, hv⟩ := stepEdges_atLine_rising h0 h1
  have hev := vblankInEvent_without_extraction (s := s.atLine) (dirty_atLine s ▸ hskip)
  obtain ⟨t, hx, hrec, hreg⟩ := exec_tick_frame_of_edges hs ht hmode (he.trans hev) rfl rfl
  refine ⟨t, hx, hrec.trans ?_, hreg⟩
  rw [hv, List.append_assoc]
  rfl

/-- Settles O37: the edge is the vblank-in event with its one frame (`vblankInEvent_pushing`). -/
theorem tickOnTheRisingEdgePushesTheFrame : Obligations.TickOnTheRisingEdgePushesTheFrame := by
  intro s fr hs ht hmode h0 h1 hg hd hen hfr
  obtain ⟨he, hv⟩ := stepEdges_atLine_rising h0 h1
  have hev := vblankInEvent_pushing (s := s.atLine) hg ((dirty_atLine s).trans hd) hen ((readFrame_atLine s).trans hfr)
  obtain ⟨t, hx, hrec, hreg⟩ := exec_tick_frame_of_edges hs ht hmode (he.trans hev) rfl rfl
  refine ⟨t, hx, hrec.trans ?_, hreg⟩
  rw [hv, List.append_assoc]
  rfl

/-- Settles O39: the edge is the vblank-in event that the fault stops (`vblankInEvent_faulting`), and the tick with it. -/
theorem extractionFaultStopsTheTick : Obligations.ExtractionFaultStopsTheTick := by
  intro s f hs ht hmode h0 h1 hg hfault
  obtain ⟨he, hv⟩ := stepEdges_atLine_rising h0 h1
  have hev := vblankInEvent_faulting (s := s.atLine) hg (by rwa [dirty_atLine, readFrame_atLine])
  refine ⟨_, exec_tick_due hs ht, ?_⟩
  rw [tickBody_on (mode_of_mem hmode), he, hev, andThen_halted, close_halted, hv]
  rfl

/-! ### The mirror (R110) -/

/-- A write to a field leaves the bits outside it. -/
theorem getLsbD_withField_of_out {r : BitRange} (v : Nat) (w : Word) {i : Nat} (hi : i < 32)
    (h : ¬ (r.lo ≤ i ∧ i < r.lo + r.width)) : (withField r v w).getLsbD i = w.getLsbD i :=
  (getLsbD_withField r v w hi).trans (if_neg h)

/-- A field that shares no bit with the one written reads as before. -/
theorem fieldOf_withField_of_disjoint {r q : BitRange} (hr : r.lo + r.width ≤ 32)
    (h : r.lo + r.width ≤ q.lo ∨ q.lo + q.width ≤ r.lo) (v : Nat) (w : Word) :
    fieldOf r (withField q v w) = fieldOf r w := by
  apply Nat.eq_of_testBit_eq
  intro i
  rw [testBit_fieldOf, testBit_fieldOf]
  by_cases hi : i < r.width
  · rw [getLsbD_withField_of_out v w (by omega) (by omega)]
  · simp [hi]

section Mirror

variable (m : RegisterMap) (line : Nat) (field vsync : Bool) (w : Word)

/-- Bits outside the three fields are kept. -/
theorem getLsbD_mirrorWord_of_out {i : Nat} (hi : i < 32)
    (ha : i < (m.bits .scanline).lo ∨ (m.bits .scanline).hi < i)
    (hb : i < (m.bits .fieldnum).lo ∨ (m.bits .fieldnum).hi < i)
    (hc : i < (m.bits .statusVsync).lo ∨ (m.bits .statusVsync).hi < i) :
    (mirrorWord m line field vsync w).getLsbD i = w.getLsbD i := by
  have ha' := m.lo_add_width .scanline
  have hb' := m.lo_add_width .fieldnum
  have hc' := m.lo_add_width .statusVsync
  rw [mirrorWord, getLsbD_withField_of_out _ _ hi (by omega), getLsbD_withField_of_out _ _ hi (by omega),
    getLsbD_withField_of_out _ _ hi (by omega)]

/-- A flag fits every field, since each has a bit. -/
theorem flag_mod_width (b : Bool) (f : FieldName) : b.toNat % 2 ^ (m.bits f).width = b.toNat :=
  Nat.mod_eq_of_lt ((Bool.toNat_lt b).trans_le (Nat.pow_le_pow_right Nat.two_pos (Nat.succ_pos _)))

/-- Where the three share no bit, each reads as what was mirrored, cut to its width. -/
theorem fieldOf_mirrorWord
    (hab : (m.bits .scanline).hi < (m.bits .fieldnum).lo ∨ (m.bits .fieldnum).hi < (m.bits .scanline).lo)
    (hac : (m.bits .scanline).hi < (m.bits .statusVsync).lo ∨ (m.bits .statusVsync).hi < (m.bits .scanline).lo)
    (hbc : (m.bits .fieldnum).hi < (m.bits .statusVsync).lo ∨ (m.bits .statusVsync).hi < (m.bits .fieldnum).lo) :
    fieldOf (m.bits .scanline) (mirrorWord m line field vsync w) = line % 1024 % 2 ^ (m.bits .scanline).width ∧
    fieldOf (m.bits .fieldnum) (mirrorWord m line field vsync w) = field.toNat ∧
    fieldOf (m.bits .statusVsync) (mirrorWord m line field vsync w) = vsync.toNat := by
  have ha' := m.lo_add_width .scanline
  have hb' := m.lo_add_width .fieldnum
  have hc' := m.lo_add_width .statusVsync
  have ha := (m.bits_legal .scanline).2
  have hb := (m.bits_legal .fieldnum).2
  have hc := (m.bits_legal .statusVsync).2
  refine ⟨?_, ?_, ?_⟩
  · rw [mirrorWord, fieldOf_withField_of_disjoint (by omega) (by omega),
      fieldOf_withField_of_disjoint (by omega) (by omega), fieldOf_withField (by omega)]
  · rw [mirrorWord, fieldOf_withField_of_disjoint (by omega) (by omega), fieldOf_withField (by omega), flag_mod_width]
  · rw [mirrorWord, fieldOf_withField (by omega), flag_mod_width]

end Mirror

/-- Bit `lo` of the word is the value of a field of one bit there. -/
theorem getLsbD_of_fieldOf_eq {lo : Nat} {w : Word} {b : Bool} (h : fieldOf ⟨lo, lo⟩ w = b.toNat) :
    w.getLsbD lo = b := by
  have hbit := testBit_fieldOf ⟨lo, lo⟩ w 0
  rw [h] at hbit
  cases b <;> simpa [BitRange.width] using hbit.symm

/-- Settles O40: under every map by `getLsbD_mirrorWord_of_out` and `fieldOf_mirrorWord`, of which the default map, whose
three fields share no bit, is one. -/
theorem statusMirrorWritesThreeFields : Obligations.StatusMirrorWritesThreeFields := by
  refine ⟨fun line field vsync w => ?_, fun m line field vsync w =>
    ⟨fun i hi => getLsbD_mirrorWord_of_out m line field vsync w hi, fieldOf_mirrorWord m line field vsync w⟩⟩
  obtain ⟨hline, hfield, hvsync⟩ := fieldOf_mirrorWord defaultMap line field vsync w (by decide) (by decide) (by decide)
  refine ⟨hline.trans (Nat.mod_mod _ 1024), getLsbD_of_fieldOf_eq hfield, getLsbD_of_fieldOf_eq hvsync,
    fun i hi hlo hne => getLsbD_mirrorWord_of_out defaultMap line field vsync w hi ?_ ?_ ?_⟩ <;>
  · rw [defaultMap_bits]
    simp only [FieldName.place]
    omega

end Sys2Proof.Machine
end

section
/-! SUPPORT. What the default parameters fix (R5, R16 to R36; log 9, log 10): the places of the fields, the line periods of
the timing table, and the reset state. -/

namespace Sys2Proof.Machine

/-! ### Fields in the default map -/

/-- A field of the default map, as arithmetic on the word at its register's offset. -/
theorem get_defaultMap {s : State} (h : s.config.regMap = defaultMap) (f : FieldName) :
    s.get f = (s.reg (f.place.reg.byteOffset / 4)).toNat / 2 ^ f.place.lo % 2 ^ (f.place.hi - f.place.lo + 1) := by
  rw [State.get, State.off, h, fieldOf_eq, defaultMap_bits, defaultMap_offset, BitRange.width]

/-- Settles O13: each entry lists its field's default place, read by `get_defaultMap`. -/
theorem fieldsReadTheirBits : Obligations.FieldsReadTheirBits := by
  refine ⟨rfl, by decide, fun s h e he => ?_⟩
  have hplace : e.2 = (e.1.place.reg.byteOffset, e.1.place.lo, e.1.place.hi - e.1.place.lo + 1) := by
    revert e
    decide
  rw [get_defaultMap h, hplace]

/-! ### Line periods (R98, R162) -/

/-- Settles O21: the period and the deadline of a reconfiguration (`reconfigure_eq`) from the three fields' values
(`lineHz_eq`), which each entry gives. -/
theorem linePeriodsOfTheTimingTable : Obligations.LinePeriodsOfTheTimingTable := by
  intro s hclock e he hcount hdiv hinterlace
  have hperiod : nsPerSec / s.lineHz = e.2.2.2 := by
    rw [lineHz_eq, hclock, hcount, hdiv, hinterlace]
    clear hcount hdiv hinterlace
    revert e
    decide
  rw [reconfigure_eq]
  exact ⟨hperiod, congrArg (fun p => some (s.now + p)) hperiod⟩

/-! ### The reset state (R148 to R151) -/

/-- Under the default parameters the reset registers give the line period of `State.reset`. -/
theorem resetBlock_period {s : State} (h : s.config = defaultConfig) : nsPerSec / s.resetBlock.lineHz = 63556 := by
  have hregs : s.resetBlock.regs = State.reset.regs := by
    rw [resetBlock_regs, h]
    decide
  have hget : s.resetBlock.get = State.reset.get := funext (get_congr s.resetBlock (t := State.reset) h hregs)
  rw [lineHz_eq, hget, resetBlock_config, h]
  decide

/-- Settles O50: the state `RESET` leaves (`exec_reset`), its registers those of the reset table and its period
`resetBlock_period`. -/
theorem defaultResetIsTheResetState : Obligations.DefaultResetIsTheResetState := by
  intro s hc hn ht
  refine ⟨_, exec_reset s, ?_⟩
  rw [resetBlock_period hc]
  simp only [State.resetBlock, State.revive, hc, hn, ht, if_true]
  rfl

/-! ### A 32-bit pixel (R125, log 22) -/

/-- Settles O44: the conversion reads the three low bytes alone (`convertPixel_of_three_bytes`). -/
theorem fourthByteOfA32BitPixelIsNotNeeded : Obligations.FourthByteOfA32BitPixelIsNotNeeded := by
  intro s a b h
  exact convertPixel_of_three_bytes (by simp) h

end Sys2Proof.Machine
end

section
/-! SUPPORT. Extraction as the spec counts it (R119 to R121): every pixel of a frame by its row and column, and the first
byte that stops the reading. -/

namespace Sys2Proof.Machine

/-- Bytes per pixel by depth code (R118). -/
def bytesPerPixel (depth : Nat) : Nat := ([2, 2, 3, 4][depth]?).getD 0

/-- The width of the frame that the registers describe (R119). -/
def State.frameWidth (s : State) : Nat := (s.get .fbXSize + 1) * 4 / bytesPerPixel (s.get .fbDepth)

/-- Its fields: two if interlaced. -/
def State.frameFields (s : State) : Nat := if s.get .interlace = 1 then 2 else 1

def State.frameHeight (s : State) : Nat := (s.get .fbYSize + 1) * s.frameFields

/-- From a row of a field to the next (R120). -/
def State.frameStride (s : State) : Word :=
  BitVec.ofNat 32 (s.frameWidth * bytesPerPixel (s.get .fbDepth)) + (BitVec.ofNat 32 (s.get .fbModulus) - 1) * 4

/-- The address of row `y` (R121). -/
def State.rowAddr (s : State) (y : Nat) : Word :=
  (if y % s.frameFields = 0 then s.word .fbRSof1 else s.word .fbRSof2) + BitVec.ofNat 32 (y / s.frameFields) * s.frameStride

/-- The address of pixel `x` of row `y`. -/
def State.pixelAddr (s : State) (y x : Nat) : Word :=
  s.rowAddr y + BitVec.ofNat 32 (x * bytesPerPixel (s.get .fbDepth))

/-- The rows of the frame, read in turn. -/
def State.frameRows (s : State) : Except BlockFault (List Byte) :=
  s.convertRows (s.get .fbDepth) (bytesPerPixel (s.get .fbDepth)) s.frameWidth s.frameStride (s.flag .interlace)
    s.frameHeight (s.word .fbRSof1) (s.word .fbRSof2)

section Frames

variable {s : State}

theorem frameFields_eq (s : State) : (if s.flag .interlace then 2 else 1) = s.frameFields := by
  simp only [State.flag, beq_iff_eq, State.frameFields]

/-- For the four depth codes extraction reads these rows; any other code is `Fatal(DEPTH)` (R118, R133). -/
theorem readFrame_of_depth_lt (h : s.get .fbDepth < 4) :
    s.readFrame = s.frameRows.map fun bytes => ⟨bytes, s.frameWidth, s.frameHeight⟩ := by
  have hsize : s.fbSize = .ok (s.frameWidth, s.frameHeight) := fbSize_of_depth_lt h
  rw [State.readFrame, hsize]
  simp only [bppOf_eq_getElem?]
  split
  · next f hf => rw [show s.frameRows = .error f from hf]; rfl
  · next bytes hb => rw [show s.frameRows = .ok bytes from hb]; rfl

theorem readFrame_of_le_depth (h : 4 ≤ s.get .fbDepth) : s.readFrame = .error (.depth (s.get .fbDepth)) := by
  rw [State.readFrame, fbSize_of_le_depth h]

theorem depth_lt_of_readFrame {fr : Frame} (h : s.readFrame = .ok fr) : s.get .fbDepth < 4 := by
  by_contra hd
  rw [readFrame_of_le_depth (Nat.not_lt.1 hd)] at h
  cases h

/-- The rows read are those at `rowAddr`, in order. -/
theorem frameRows_ok {bytes : List Byte} (h : s.frameRows = .ok bytes) :
    bytes.length = 3 * s.frameWidth * s.frameHeight ∧ ∀ y < s.frameHeight,
      s.convertRow (s.get .fbDepth) (bytesPerPixel (s.get .fbDepth)) s.frameWidth (s.rowAddr y) =
        .ok ((bytes.drop (3 * s.frameWidth * y)).take (3 * s.frameWidth)) := by
  have hrows := convertRows_ok h
  rw [frameFields_eq] at hrows
  exact hrows

/-- The pixels read are those at `pixelAddr`, in order. -/
theorem frameRows_pixel {bytes : List Byte} (h : s.frameRows = .ok bytes) {y x : Nat} (hy : y < s.frameHeight)
    (hx : x < s.frameWidth) :
    s.convertPixel (s.get .fbDepth) (s.pixelAddr y x) = .ok ((bytes.drop (3 * (y * s.frameWidth + x))).take 3) := by
  rw [State.pixelAddr, (convertRow_ok ((frameRows_ok h).2 y hy)).2 x hx, List.drop_take, List.drop_drop, List.take_take,
    min_eq_left (by omega), show 3 * s.frameWidth * y + 3 * x = 3 * (y * s.frameWidth + x) by ring]

/-- Settles O45: the frame is its rows (`readFrame_of_depth_lt`), which hold every pixel (`frameRows_pixel`). -/
theorem extractedFrameHoldsEveryPixel : Obligations.ExtractedFrameHoldsEveryPixel := by
  intro s fr h
  rw [readFrame_of_depth_lt (depth_lt_of_readFrame h)] at h
  cases hrows : s.frameRows with
  | error f => simp [hrows, Except.map] at h
  | ok bytes =>
    obtain rfl : (⟨bytes, s.frameWidth, s.frameHeight⟩ : Frame) = fr := by simpa [hrows, Except.map] using h
    exact ⟨rfl, rfl, (frameRows_ok hrows).1, fun y hy x hx => frameRows_pixel hrows hy hx⟩

/-- The rows are read where every pixel is. -/
theorem frameRows_of_pixels (h : ∀ y < s.frameHeight, ∀ x < s.frameWidth,
    ∃ px, s.convertPixel (s.get .fbDepth) (s.pixelAddr y x) = .ok px) : ∃ bytes, s.frameRows = .ok bytes := by
  refine convertRows_of_rows fun y hy => ?_
  rw [frameFields_eq]
  exact convertRow_of_pixels (h y hy)

/-- They stop at the fault of the first pixel that is not. -/
theorem frameRows_refused {y x : Nat} (hy : y < s.frameHeight) (hx : x < s.frameWidth) {f : BlockFault}
    (hf : s.convertPixel (s.get .fbDepth) (s.pixelAddr y x) = .error f)
    (hb : ∀ y' x', x' < s.frameWidth → (y' < y ∨ (y' = y ∧ x' < x)) →
      ∃ px, s.convertPixel (s.get .fbDepth) (s.pixelAddr y' x') = .ok px) : s.frameRows = .error f := by
  refine convertRows_refused hy ?_ fun y' hy' => ?_ <;> rw [frameFields_eq]
  · exact convertRow_refused hx hf fun x' hx' => hb y x' (hx'.trans hx) (Or.inr ⟨rfl, hx'⟩)
  · exact convertRow_of_pixels fun x' hx' => hb y' x' hx' (Or.inl hy')

end Frames

theorem pixelBytesRead_eq (depth : Nat) : pixelBytesRead depth = if depth ≤ 1 then 2 else 3 := by
  have h : depth = 0 ∨ depth = 1 ↔ depth ≤ 1 := by omega
  simp only [pixelBytesRead, h]

/-- Settles O46: a frame is read where every pixel is (`frameRows_of_pixels`, `convertPixel_of_allowed`) and stops at the
first pixel that is not, at the first of its bytes (`frameRows_refused`, `convertPixel_refused`). -/
theorem frameReadSucceedsInRange : Obligations.FrameReadSucceedsInRange := by
  intro s depth bpp width fields stride height read byteAddr
  have hread : pixelBytesRead depth = read := pixelBytesRead_eq depth
  refine ⟨fun hmap => ?_, fun hd => readFrame_of_le_depth hd, fun hd hall => ?_, fun hd y hy x hx i hi hbad hbefore => ?_⟩
  · have hlt := get_lt s .fbDepth
    rw [hmap] at hlt
    exact hlt
  · have hpixels : ∀ y < s.frameHeight, ∀ x < s.frameWidth,
        ∃ px, s.convertPixel depth (s.pixelAddr y x) = .ok px := fun y hy x hx =>
      convertPixel_of_allowed fun i hi => hall y hy x hx i (hread ▸ hi)
    obtain ⟨bytes, hrows⟩ := frameRows_of_pixels hpixels
    exact ⟨_, by rw [readFrame_of_depth_lt hd, hrows]; rfl⟩
  · have hpixel : s.convertPixel depth (s.pixelAddr y x) = .error (.vramRange (byteAddr y x i)) :=
      convertPixel_refused (hread ▸ hi) hbad fun j hj =>
        hbefore y x j hx (hj.trans hi) (Or.inr ⟨rfl, Or.inr ⟨rfl, hj⟩⟩)
    have hrows := frameRows_refused hy hx hpixel fun y' x' hx' hlt => convertPixel_of_allowed fun i' hi' =>
      hbefore y' x' i' hx' (hread ▸ hi') (hlt.imp_right fun h => ⟨h.1, Or.inl h.2⟩)
    rw [readFrame_of_depth_lt hd, hrows]
    rfl

end Sys2Proof.Machine
end

section
/-! SUPPORT. A block that nobody acts on (42_spg.md, "Properties that follow"): every step is the tick at its deadline, so
the line goes round, and each edge of the vsync flag comes once a round (R113). -/

namespace Sys2Proof.Machine

/-! ### One step -/

theorem step_of_no_move {s t : State} (hin : s.inbox = []) (h : step s = .next t) :
    ∃ d, s.accepts = true ∧ s.timer = some d ∧ exec .tick (s.atTime d) = .next t := by
  rcases step_cases h with ⟨d, hp, -, htick⟩ | ⟨r, rest, hcons, -, -⟩
  · obtain ⟨hs, ht⟩ := pendingTick_some.1 hp
    exact ⟨d, hs, ht, htick⟩
  · simp [hin] at hcons

/-- From `s` to `t` the line is one on, and the parameters, the inbox and every register but `SPG_STATUS` are kept. -/
structure State.Advanced (s t : State) : Prop where
  config : t.config = s.config
  inbox : t.inbox = s.inbox
  line : t.currentLine = s.nextLine
  reg : ∀ o, o ≠ s.off .spgStatus → t.reg o = s.reg o

theorem advanced_of_step {s t : State} (hin : s.inbox = []) (h : step s = .next t) : s.Advanced t := by
  obtain ⟨d, hs, ht, htick⟩ := step_of_no_move hin h
  obtain ⟨hconfig, -, hinbox⟩ := (shape_of_exec htick).frame
  obtain ⟨u, hu, hline, -⟩ := everyTickAdvancesTheLineThenStopsOrRaisesItsInterrupts (s.atTime d) hs ht
  obtain rfl : u = t := by simpa [hu] using htick
  refine ⟨hconfig, hinbox, hline, fun o ho => ?_⟩
  by_contra hne
  exact ho (onlyStoringWritesTheMirrorAndResetChangeRegisters .tick (s.atTime d) u o htick hne).1

namespace State.Advanced

variable {s t : State} (h : s.Advanced t)
include h

theorem off (r : RegName) : t.off r = s.off r := by rw [State.off, State.off, h.config]

/-- Fields of every register but `SPG_STATUS` read as before. -/
theorem get {f : FieldName} (hf : f.place.reg ≠ .spgStatus) : t.get f = s.get f := by
  rw [State.get, State.get, h.off, h.config, h.reg _ ((off_inj s).not.2 hf)]

theorem line_le : t.currentLine ≤ t.get .vcount := by
  rw [h.line, h.get (by decide)]
  exact Nat.le_of_lt_succ (Nat.mod_lt _ (Nat.succ_pos _))

end State.Advanced

/-! ### The line goes round (R113 (1)) -/

theorem run_line {k : Nat} {s t : State} (hin : s.inbox = []) (hline : s.currentLine ≤ s.get .vcount)
    (hrun : Host.Core.run Sys2Proof.core k s = .next t) :
    t.currentLine = (s.currentLine + k) % (s.get .vcount + 1) ∧
      ∀ o, o ≠ s.off .spgStatus → t.reg o = s.reg o := by
  induction k generalizing s with
  | zero =>
    cases hrun
    exact ⟨(Nat.mod_eq_of_lt (Nat.lt_succ_of_le hline)).symm, fun _ _ => rfl⟩
  | succ k ih =>
    obtain ⟨u, hu, hrest⟩ := run_succ.1 hrun
    have hadv := advanced_of_step hin hu
    obtain ⟨hend, hregs⟩ := ih (hadv.inbox.trans hin) hadv.line_le hrest
    refine ⟨?_, fun o ho => (hregs o (hadv.off _ ▸ ho)).trans (hadv.reg o ho)⟩
    rw [hend, hadv.line, hadv.get (by decide), State.nextLine, Nat.mod_add_mod, Nat.add_right_comm, Nat.add_assoc]

/-- Settles O41: `run_line`; a full cycle adds nothing modulo its length. -/
theorem lineReturnsAfterAFullCycle : Obligations.LineReturnsAfterAFullCycle := by
  intro k s t hin hline hrun _
  obtain ⟨hend, hregs⟩ := run_line hin hline hrun
  refine ⟨hend, hregs, fun hk => ?_⟩
  rw [hend, hk, Nat.add_mod_right, Nat.mod_eq_of_lt (Nat.lt_succ_of_le hline)]

/-! ### The events of one tick (R107 to R109) -/

/-- A line's interrupts are no edge events. -/
theorem lineEvents_countP (s : State) (line : Nat) :
    (s.lineEvents line).countP Event.isVblankIn = 0 ∧ (s.lineEvents line).countP Event.isVblankOut = 0 := by
  unfold State.lineEvents
  split <;> split <;> split <;> exact ⟨rfl, rfl⟩

/-- Of what a tick adds after its line's interrupts only the edge events count. -/
theorem countP_of_trace {s t : State} {l : List Event}
    (h : t.trace = s.trace ++ s.lineEvents s.nextLine ++ l) :
    ∃ added, t.trace = s.trace ++ added ∧ added.countP Event.isVblankIn = l.countP Event.isVblankIn ∧
      added.countP Event.isVblankOut = l.countP Event.isVblankOut := by
  obtain ⟨hin, hout⟩ := lineEvents_countP s s.nextLine
  refine ⟨_, h.trans (List.append_assoc ..), ?_, ?_⟩
  · rw [List.countP_append, hin, Nat.zero_add]
  · rw [List.countP_append, hout, Nat.zero_add]

/-- The flag of the line a tick goes to (R106). -/
def State.nextVsync (s : State) : Bool := vsyncOf (s.get .vbstart) (s.get .vbend) s.nextLine

/-- A tick without a fault takes that flag, and adds one vblank-in event if it sets the old one, one vblank-out event if it
clears it. -/
structure State.Edged (s t : State) : Prop where
  vsync : t.vsync = s.nextVsync
  events : ∃ added, t.trace = s.trace ++ added ∧
    added.countP Event.isVblankIn = (!s.vsync && s.nextVsync).toNat ∧
    added.countP Event.isVblankOut = (s.vsync && !s.nextVsync).toNat

section Edges

variable {s t : State} (hs : s.accepts = true) (ht : s.timer = some s.now) (h : exec .tick s = .next t)
include hs ht h

theorem edged_without_edge (hmode : s.get .hblankIntMode ∈ ([0, 2] : List Nat)) (hv : s.nextVsync = s.vsync) :
    s.Edged t := by
  obtain ⟨u, hu, hrec, -⟩ := tickWithoutEdge s hs ht hmode (hv ▸ vsyncOf_iff s s.nextLine)
  obtain rfl : t = u := by simpa [h] using hu
  obtain ⟨added, htrace, hin, hout⟩ := countP_of_trace (congrArg State.trace hrec)
  refine ⟨(congrArg State.vsync hrec).trans hv.symm, added, htrace, ?_, ?_⟩
  · rw [hin, hv, Bool.not_and_self]
    rfl
  · rw [hout, hv, Bool.and_not_self]
    rfl

theorem edged_falling (hmode : s.get .hblankIntMode ∈ ([0, 2] : List Nat)) (h1 : s.vsync = true)
    (hv : s.nextVsync = false) : s.Edged t := by
  have hline : ¬ s.vsyncAt s.nextLine := fun hl => by
    simp [State.nextVsync, (vsyncOf_iff s s.nextLine).2 hl] at hv
  obtain ⟨u, hu, hrec, -⟩ := tickOnTheFallingEdge s hs ht hmode h1 hline
  obtain rfl : t = u := by simpa [h] using hu
  obtain ⟨added, htrace, hin, hout⟩ := countP_of_trace (congrArg State.trace hrec)
  refine ⟨(congrArg State.vsync hrec).trans hv.symm, added, htrace, ?_, ?_⟩
  · rw [hin, hv, h1]
    rfl
  · rw [hout, hv, h1]
    rfl

theorem edged_rising (hf : t.fault = none) (hmode : s.get .hblankIntMode ∈ ([0, 2] : List Nat)) (h0 : s.vsync = false)
    (hv : s.nextVsync = true) : s.Edged t := by
  have hline : s.vsyncAt s.nextLine := (vsyncOf_iff s s.nextLine).1 hv
  have close {l : List Event} (hvs : t.vsync = true) (htr : t.trace = s.trace ++ s.lineEvents s.nextLine ++ l)
      (hl : l.countP Event.isVblankIn = 1 ∧ l.countP Event.isVblankOut = 0) : s.Edged t := by
    obtain ⟨added, htrace, hin, hout⟩ := countP_of_trace htr
    refine ⟨hvs.trans hv.symm, added, htrace, ?_, ?_⟩
    · rw [hin, hl.1, hv, h0]
      rfl
    · rw [hout, hl.2, hv, h0]
      rfl
  have skipped (hskip : s.gotStartrender = true ∨ s.dirty = .ok false ∨ (s.dirty = .ok true ∧ s.get .fbEnable = 0)) :
      s.Edged t := by
    obtain ⟨u, hu, hrec, -⟩ := tickOnTheRisingEdgeWithoutExtraction s hs ht hmode h0 hline hskip
    obtain rfl : t = u := by simpa [h] using hu
    exact close (congrArg State.vsync hrec) (congrArg State.trace hrec) ⟨rfl, rfl⟩
  have faulted {f : BlockFault} (hg : s.gotStartrender = false)
      (hfault : s.dirty = .error f ∨ (s.dirty = .ok true ∧ s.get .fbEnable ≠ 0 ∧ s.readFrame = .error f)) :
      s.Edged t := by
    obtain ⟨u, hu, hrec⟩ := extractionFaultStopsTheTick s f hs ht hmode h0 hline hg hfault
    obtain rfl : t = u := by simpa [h] using hu
    exact absurd ((congrArg State.fault hrec).symm.trans hf) (Option.some_ne_none f)
  cases hg : s.gotStartrender with
  | true => exact skipped (Or.inl hg)
  | false =>
    rcases detectAndExtract_cases s with ⟨f, hd, -⟩ | ⟨hd, -⟩ | ⟨hd, hen, -⟩ | ⟨f, hd, hen, hr, -⟩ | ⟨fr, hd, hen, hr, -⟩
    · exact faulted hg (Or.inl hd)
    · exact skipped (Or.inr (Or.inl hd))
    · exact skipped (Or.inr (Or.inr ⟨hd, hen⟩))
    · exact faulted hg (Or.inr ⟨hd, hen, hr⟩)
    · obtain ⟨u, hu, hrec, -⟩ := tickOnTheRisingEdgePushesTheFrame s fr hs ht hmode h0 hline hg hd hen hr
      obtain rfl : t = u := by simpa [h] using hu
      exact close (congrArg State.vsync hrec) (congrArg State.trace hrec) ⟨rfl, rfl⟩

theorem edged_of_tick (hf : t.fault = none) : s.Edged t := by
  have hmode : s.get .hblankIntMode ∈ ([0, 2] : List Nat) := by
    by_contra hbad
    have hmodes : s.get .hblankIntMode ≠ 0 ∧ s.get .hblankIntMode ≠ 2 := by simpa using hbad
    rw [exec_tick_of_bad_mode hs ht hmodes.1 hmodes.2] at h
    cases h
    cases hf
  cases h0 : s.vsync <;> cases hv : s.nextVsync
  · exact edged_without_edge hs ht h hmode (hv.trans h0.symm)
  · exact edged_rising hs ht h hf hmode h0 hv
  · exact edged_falling hs ht h hmode h0 hv
  · exact edged_without_edge hs ht h hmode (hv.trans h0.symm)

end Edges

/-! ### The edges of a cycle -/

/-- A block with a fault and nothing waiting takes no step, so a run that ends without one began without one. -/
theorem fault_of_run {k : Nat} {s t : State} (hin : s.inbox = []) (hrun : Host.Core.run Sys2Proof.core k s = .next t)
    (hf : t.fault = none) : s.fault = none := by
  cases k with
  | zero => cases hrun; exact hf
  | succ k =>
    obtain ⟨u, hu, -⟩ := run_succ.1 hrun
    obtain ⟨d, hs, -, -⟩ := step_of_no_move hin hu
    exact ((accepts_iff s).1 hs).1

/-- Whether the step from line `x` of a cycle of `n` lines sets the flag. -/
def risesAt (a b n x : Nat) : Bool := !vsyncOf a b x && vsyncOf a b ((x + 1) % n)

/-- Whether it clears the flag. -/
def fallsAt (a b n x : Nat) : Bool := vsyncOf a b x && !vsyncOf a b ((x + 1) % n)

theorem toNat_eq_ite {c : Bool} {p : Prop} [Decidable p] (h : c = true ↔ p) : c.toNat = if p then 1 else 0 := by
  cases c with
  | false => rw [if_neg fun hp => Bool.false_ne_true (h.2 hp)]; rfl
  | true => rw [if_pos (h.1 rfl)]; rfl

theorem succ_mod_of_lt {n x : Nat} (hx : x < n) : (x + 1) % n = if x + 1 = n then 0 else x + 1 := by
  split
  · next h => rw [h, Nat.mod_self]
  · exact Nat.mod_eq_of_lt (by omega)

/-- A window of lines that holds some line of the cycle and not every one is entered from one line and left from one. -/
theorem window_edges {a b n : Nat} (hab : a < b) (hin : a < n) (hout : 0 < a ∨ b < n) {x : Nat} (hx : x < n) :
    ((¬ (a ≤ x ∧ x < b) ∧ (a ≤ (x + 1) % n ∧ (x + 1) % n < b)) ↔ x = if a = 0 then n - 1 else a - 1) ∧
    (((a ≤ x ∧ x < b) ∧ ¬ (a ≤ (x + 1) % n ∧ (x + 1) % n < b)) ↔ x = min (b - 1) (n - 1)) := by
  rw [succ_mod_of_lt hx]
  split <;> split <;> omega

/-- Where the flag takes both values in a cycle, it is set from one line and cleared from one. -/
theorem vsyncOf_edges {a b n : Nat} (hset : ∃ x < n, vsyncOf a b x = true) (hclear : ∃ x < n, vsyncOf a b x = false) :
    ∃ r < n, ∃ f < n, ∀ x < n, (risesAt a b n x = true ↔ x = r) ∧ (fallsAt a b n x = true ↔ x = f) := by
  obtain ⟨p, hp, hpv⟩ := hset
  obtain ⟨q, hq, hqv⟩ := hclear
  simp only [risesAt, fallsAt, Bool.and_eq_true, Bool.not_eq_true', ← Bool.not_eq_true]
  by_cases hab : a < b
  · have hv (x : Nat) : vsyncOf a b x = true ↔ a ≤ x ∧ x < b := by simp [vsyncOf, hab]
    simp only [← Bool.not_eq_true, hv] at hpv hqv ⊢
    refine ⟨if a = 0 then n - 1 else a - 1, by split <;> omega, min (b - 1) (n - 1), by omega, fun x hx => ?_⟩
    exact window_edges hab (by omega) (by omega) hx
  · have hv (x : Nat) : vsyncOf a b x = true ↔ ¬ (b ≤ x ∧ x < a) := by simp [vsyncOf, hab]; omega
    simp only [← Bool.not_eq_true, hv, not_not] at hpv hqv ⊢
    refine ⟨min (a - 1) (n - 1), by omega, if b = 0 then n - 1 else b - 1, by split <;> omega, fun x hx => ?_⟩
    exact (window_edges (by omega) (by omega) (by omega) hx).symm

/-- Going round once from any line, each line is met once. -/
theorem count_cycle {c r n : Nat} (hc : c < n) (hr : r < n) : Nat.count (fun j => (c + j) % n = r) n = 1 := by
  rw [Nat.count_eq_card_filter_range, Finset.card_eq_one]
  refine ⟨if c ≤ r then r - c else r + n - c, Finset.ext fun j => ?_⟩
  simp only [Finset.mem_filter, Finset.mem_range, Finset.mem_singleton]
  have hmod (hj : j < n) : (c + j) % n = if c + j < n then c + j else c + j - n := by
    split
    · next h => exact Nat.mod_eq_of_lt h
    · next h => rw [Nat.mod_eq_sub_mod (Nat.not_lt.1 h), Nat.mod_eq_of_lt (by omega)]
  constructor
  · rintro ⟨hj, he⟩
    rw [hmod hj] at he
    split at he <;> split <;> omega
  · intro he
    have hj : j < n := by split at he <;> omega
    refine ⟨hj, ?_⟩
    rw [hmod hj]
    split at he <;> split <;> omega

/-! ### A round of the machine (R113 (2)) -/

/-- A block that nobody acts on, on a line of a cycle of `n` with the window from `a` to `b`, its flag that of its line. -/
structure State.OnCycle (a b n : Nat) (s : State) : Prop where
  inbox : s.inbox = []
  vbstart : s.get .vbstart = a
  vbend : s.get .vbend = b
  vcount : s.get .vcount + 1 = n
  line : s.currentLine < n
  vsync : s.vsync = vsyncOf a b s.currentLine

/-- The events a run adds to the trace hold so many edges each way. -/
def State.AddsEdges (s t : State) (ins outs : Nat) : Prop :=
  ∃ added, t.trace = s.trace ++ added ∧ added.countP Event.isVblankIn = ins ∧ added.countP Event.isVblankOut = outs

theorem State.AddsEdges.trans {s u t : State} {i o i' o' : Nat} (h : s.AddsEdges u i o) (h' : u.AddsEdges t i' o') :
    s.AddsEdges t (i + i') (o + o') := by
  obtain ⟨l, hl, hi, ho⟩ := h
  obtain ⟨l', hl', hi', ho'⟩ := h'
  exact ⟨l ++ l', by rw [hl', hl, List.append_assoc], by rw [List.countP_append, hi, hi'],
    by rw [List.countP_append, ho, ho']⟩

section Cycle

variable {a b n : Nat} {s t : State} (hc : s.OnCycle a b n)
include hc

/-- A step without a fault stays on the cycle, one line on, and adds the edges from its line to the next. -/
theorem State.OnCycle.step (h : step s = .next t) (hf : t.fault = none) :
    t.OnCycle a b n ∧ t.currentLine = (s.currentLine + 1) % n ∧
      s.AddsEdges t (risesAt a b n s.currentLine).toNat (fallsAt a b n s.currentLine).toNat := by
  obtain ⟨hin, rfl, rfl, rfl, -, hvs⟩ := hc
  have hadv := advanced_of_step hin h
  obtain ⟨d, hs, ht, htick⟩ := step_of_no_move hin h
  have hedge : (s.atTime d).Edged t := edged_of_tick hs ht htick hf
  have hline : t.currentLine = (s.currentLine + 1) % (s.get .vcount + 1) := hadv.line
  refine ⟨⟨hadv.inbox.trans hin, hadv.get (by decide), hadv.get (by decide), ?_, ?_, ?_⟩, hline, ?_⟩
  · rw [hadv.get (by decide)]
  · rw [hline]
    exact Nat.mod_lt _ (Nat.succ_pos _)
  · rw [hline]
    exact hedge.vsync
  · rw [risesAt, fallsAt, ← hvs]
    exact hedge.events

/-- Over `k` steps without a fault the edges are those of the lines passed, if `r` and `f` are the lines they come from. -/
theorem State.OnCycle.run {r f k : Nat}
    (hedges : ∀ x < n, (risesAt a b n x = true ↔ x = r) ∧ (fallsAt a b n x = true ↔ x = f))
    (hrun : Host.Core.run Sys2Proof.core k s = .next t) (hf : t.fault = none) :
    s.AddsEdges t (Nat.count (fun j => (s.currentLine + j) % n = r) k)
      (Nat.count (fun j => (s.currentLine + j) % n = f) k) := by
  induction k generalizing s with
  | zero =>
    cases hrun
    exact ⟨[], (List.append_nil _).symm, rfl, rfl⟩
  | succ k ih =>
    obtain ⟨u, hu, hrest⟩ := run_succ.1 hrun
    have hfu := fault_of_run ((advanced_of_step hc.inbox hu).inbox.trans hc.inbox) hrest hf
    obtain ⟨hcu, hline, hadds⟩ := hc.step hu hfu
    have hshift (j : Nat) : (s.currentLine + (j + 1)) % n = (u.currentLine + j) % n := by
      rw [hline, Nat.mod_add_mod, Nat.add_right_comm, Nat.add_assoc]
    obtain ⟨hrise, hfall⟩ := hedges s.currentLine hc.line
    have hone : (s.currentLine + 0) % n = s.currentLine := Nat.mod_eq_of_lt hc.line
    have hsum := hadds.trans (ih hcu hrest)
    rw [toNat_eq_ite hrise, toNat_eq_ite hfall] at hsum
    simpa only [Nat.count_succ', hshift, hone, Nat.add_comm] using hsum

end Cycle

/-- Settles O42: the state is on its cycle, which has one rising and one falling line (`vsyncOf_edges`); a round meets
each line once (`count_cycle`). -/
theorem oneVblankInAndOneOutPerCycle : Obligations.OneVblankInAndOneOutPerCycle := by
  intro s t hin hline hvs hset hclear hrun hf
  have hcycle : s.OnCycle (s.get .vbstart) (s.get .vbend) (s.get .vcount + 1) :=
    ⟨hin, rfl, rfl, rfl, Nat.lt_succ_of_le hline, Bool.eq_iff_iff.2 (hvs.trans (vsyncOf_iff s _).symm)⟩
  have hset' : ∃ x < s.get .vcount + 1, vsyncOf (s.get .vbstart) (s.get .vbend) x = true := by
    obtain ⟨x, hx, hv⟩ := hset
    exact ⟨x, Nat.lt_succ_of_le hx, (vsyncOf_iff s x).2 hv⟩
  have hclear' : ∃ x < s.get .vcount + 1, vsyncOf (s.get .vbstart) (s.get .vbend) x = false := by
    obtain ⟨x, hx, hv⟩ := hclear
    exact ⟨x, Nat.lt_succ_of_le hx, Bool.eq_false_iff.2 fun h => hv ((vsyncOf_iff s x).1 h)⟩
  obtain ⟨r, hr, f, hfall, hedges⟩ := vsyncOf_edges hset' hclear'
  obtain ⟨added, htrace, hins, houts⟩ := hcycle.run hedges hrun hf
  rw [htrace, List.drop_left, hins, houts]
  exact ⟨count_cycle hcycle.line hr, count_cycle hcycle.line hfall⟩

end Sys2Proof.Machine
end
